-- ==== Sys2Proof/Word.lean ====
section
/-! DEFINITION. The words of the block: codeword bytes, 32-bit registers and 16-bit host addresses. -/

namespace Sys2Proof

/-- A codeword, the block's only data unit: "byte, 0–255" (R9). -/
abbrev Byte := BitVec 8

/-- The contents of one register of the host map: "Every register is 32 bits wide" (R33). -/
abbrev Word := BitVec 32

/-- A byte address of the 16-bit host address space, `0x0000` to `0xFFFF` (R70). -/
abbrev Addr := BitVec 16

end Sys2Proof
end

