-- ==== Sys2Proof/Syntax.lean ====
section
/-! DEFINITION. The six commands of the opcode map, the host bus accesses that carry them, and the turns of the two agents. -/

namespace Sys2Proof

/-- The commands of the opcode map (R102): one constructor for each row of spec/opcode_table.json. A command word
carries no immediate, register number or addressing mode; operands come from the operand latches (R104). -/
inductive Instr where
  /-- `GF_MUL`: GF(256) product (R125). -/
  | gfMul
  /-- `RS_GENPOLY`: build a generator polynomial (R142). -/
  | rsGenpoly
  /-- `RS_ENCODE`: compute ECC codewords (R144). -/
  | rsEncode
  /-- `ILV`: split into blocks, compute each block's ECC, interleave (R161). -/
  | ilv
  /-- `MTX_BUILD`: allocate the grid and place every function pattern (R180). -/
  | mtxBuild
  /-- `ZZ_PLACE`: thread the codeword bit stream through the free cells (R212). -/
  | zzPlace
deriving DecidableEq, Repr

/-- The width of a host bus access; R78 speaks of 1-, 2- and 4-byte accesses. -/
inductive AccessSize where
  | byte
  | half
  | word
deriving DecidableEq, Repr

/-- One host bus access, the transaction `(dir, address, size, data)` of R106, at a block address: the platform's
`BASE` is already subtracted (R71; log entry 9). A byte write uses `data[7:0]` (R75). -/
inductive Access where
  /-- `MemRead(addr, size)` (R13). -/
  | read (addr : Addr) (size : AccessSize)
  /-- `MemWrite(addr, size, data)` (R13). -/
  | write (addr : Addr) (size : AccessSize) (data : Word)
deriving DecidableEq, Repr

/-- The block address of an access. -/
def Access.addr : Access → Addr
  | .read a _ => a
  | .write a _ _ => a

/-- The width of an access. -/
def Access.size : Access → AccessSize
  | .read _ n => n
  | .write _ n _ => n

/-- One turn of the two agents of R30, as the schedule lays them out (R271; log entry 1). -/
inductive Turn where
  /-- The host makes one access. If `completes`, the engine's completion step comes right after it, before the next
  access; so a `CMD` write whose turn says `completes` starts a command of `LATENCY = 0` (R8, R271). -/
  | access (a : Access) (completes : Bool)
  /-- The engine's turn, between two host accesses: the completion step, where it is enabled (R271). -/
  | engine
deriving DecidableEq, Repr

end Sys2Proof
end

