-- ==== Sys2Proof/WellFormed.lean ====
section
/-! DEFINITION. What makes a command and a host access well formed. -/

namespace Sys2Proof

/-- Every command is well formed: a command word has no operand field that could be out of range (R101, R104). What
R233 checks when a command is accepted are the contents of the operand latches, which are state. -/
def Instr.wf : Instr → Bool
  | .gfMul => true
  | .rsGenpoly => true
  | .rsEncode => true
  | .ilv => true
  | .mtxBuild => true
  | .zzPlace => true

/-- The two kinds of access the block admits (R78), which are the lines of the host-program syntax (R106): `rd` and `wr`,
4 bytes at a multiple of 4 below `0x100`, and `rdb` and `wrb`, 1 byte at or above `0x100`. -/
def Access.wf (a : Access) : Bool :=
  match a.size with
  | .word => decide (a.addr.toNat < 0x100 ∧ a.addr.toNat % 4 = 0)
  | .byte => decide (0x100 ≤ a.addr.toNat)
  | .half => false

end Sys2Proof
end

