-- ==== Sys2Proof/Decode.lean ====
section
/-! DEFINITION. The decoder of R103, total on every 32-bit word and rejecting by name, and the encoder of R102. -/

namespace Sys2Proof

/-- What `decode` of R103 returns. -/
inductive Decoded where
  | command (i : Instr)
  /-- The word is an illegal command (R105). -/
  | illegal
deriving DecidableEq, Repr

/-- The field `OPCODE`, bits 7:0 of a command word (R101). -/
def opcodeField (w : Word) : Byte := w.extractLsb' 0 8

/-- The field `RSVD`, bits 31:8 of a command word (R101). -/
def rsvdField (w : Word) : BitVec 24 := w.extractLsb' 8 24

/-- `decode(w)`, the total decoding of the word written to `CMD` (R103). -/
def decode (w : Word) : Decoded :=
  if rsvdField w ≠ 0 then .illegal
  else if opcodeField w = 0x01 then .command .gfMul
  else if opcodeField w = 0x02 then .command .rsGenpoly
  else if opcodeField w = 0x03 then .command .rsEncode
  else if opcodeField w = 0x04 then .command .ilv
  else if opcodeField w = 0x05 then .command .mtxBuild
  else if opcodeField w = 0x06 then .command .zzPlace
  else .illegal

/-- The command word of each command, the column "word" of R102. -/
def encode : Instr → Word
  | .gfMul => 0x00000001
  | .rsGenpoly => 0x00000002
  | .rsEncode => 0x00000003
  | .ilv => 0x00000004
  | .mtxBuild => 0x00000005
  | .zzPlace => 0x00000006

/-- The command word whose bits are `w`, numbered as the opcode table numbers them: a command is one 32-bit bus datum
(R100), so bit `k` of `w` is bit `k` of the word, and bits at and above `nbits` are 0. -/
def tableWord (nbits w : Nat) : Word := BitVec.ofNat 32 (w % 2 ^ nbits)

/-- The instruction the decoder reads from a word of the opcode table; a command has 32 bits, so a number with a bit
above bit 31 is the bits of none. -/
def decodeTableWord (nbits w : Nat) : Option Instr :=
  if 2 ^ 32 ≤ w % 2 ^ nbits then none
  else
    match decode (tableWord nbits w) with
    | .command i => some i
    | .illegal => none

end Sys2Proof
end

