-- ==== Sys2Proof/Config.lean ====
section
/-! DEFINITION. What the implementation fixes (the parameters of R8) and the free values the spec leaves open. -/

namespace Sys2Proof.Config

/-- `ID_VALUE`: ASCII "GF", major revision 1, minor revision 0 (R3, R8, R34). -/
def idValue : Word := 0x47460100

/-- `MAX_DEG`: the largest legal generator degree (R8). -/
abbrev maxDeg : Nat := 30

/-- `VMIN`: the smallest symbol version (R8). -/
abbrev vMin : Nat := 1

/-- `VMAX`: the largest symbol version (R8). -/
abbrev vMax : Nat := 13

/-- `MAX_SIZE = 4·13 + 17`: the side of the matrix storage (R8, R40). -/
abbrev maxSize : Nat := 69

/-- `CWB_BYTES`: the length of the codeword buffer (R8, R43). -/
abbrev cwbBytes : Nat := 1024

/-- The length of the coefficient file `GEN[0..30]` (R42). -/
abbrev genLength : Nat := 31

/-- FREE VALUE: the 32-bit value that the `k`-th draw gives a read of `RESULT`, `VERSION` or `PLACED` while
`STATUS.BUSY = 1`, which "returns an unspecified value of the location's width" (R266; log entry 3). -/
opaque freeWord : Nat → Word

/-- FREE VALUE: the byte that the `k`-th draw gives a read of the `GEN`, `CWB` or `MTX` window while
`STATUS.BUSY = 1` (R266; log entry 3), or a `CWB` byte of the output region of a command cancelled by a soft reset
(R262; log entry 4). -/
opaque freeByte : Nat → Byte

end Sys2Proof.Config
end

