-- ==== Sys2Proof/Machine/State.lean ====
section
/-! DEFINITION. The architectural state of R32, the state after reset (R260), and the reasons a step can stop. -/

namespace Sys2Proof.Machine

/-- The error codes that a command can end with (R231); code 0, `OK`, is the absence of one. -/
inductive ErrCode where
  /-- Code 1: the word written to `CMD` is an illegal command. -/
  | badCmd
  /-- Code 2: the version is not in 1..13. -/
  | badVersion
  /-- Code 3: the degree is not in 1..`MAX_DEG`. -/
  | badDegree
  /-- Code 4: an input or output region would pass `CWB` offset 1023. -/
  | badRange
  /-- Code 5: no `MTX_BUILD` has succeeded since reset. -/
  | noMatrix
deriving DecidableEq, Repr

/-- The stored fields of `STATUS` (R36). `ERR` "is not separate storage", and the reserved bits hold nothing. -/
structure Status where
  /-- Bit 0, `BUSY`. -/
  busy : Bool
  /-- Bit 1, `DONE`. -/
  done : Bool
  /-- Bit 3, `OVR`. -/
  ovr : Bool
  /-- Bits 11:8, `ERRCODE`; `none` is code 0, `OK` (R231). -/
  errcode : Option ErrCode
deriving DecidableEq, Repr

/-- Five operand values: the operand registers `OPA`, `OPB`, `SRC`, `DST`, `LEN` (R38), and also the operand latches
`L_OPA`, `L_OPB`, `L_SRC`, `L_DST`, `L_LEN` (R47). -/
structure Operands where
  opa : Word
  opb : Word
  src : Word
  dst : Word
  len : Word
deriving DecidableEq, Repr

/-- One cell of the module matrix (R40). -/
structure Cell where
  /-- The module colour: 1 is black. -/
  val : Bool
  /-- 1 once a colour has been written. -/
  set : Bool
  /-- 1 for a reserved cell. -/
  rsv : Bool
deriving DecidableEq, Repr

/-- A cell at `{val = 0, set = 0, rsv = 0}`. -/
def Cell.clear : Cell := ⟨false, false, false⟩

/-- The module matrix `M`, an array of 69 × 69 cells (R40): row by row, row 0 at the top (R12). -/
abbrev Grid := Vector (Vector Cell Config.maxSize) Config.maxSize

/-- The matrix with every cell at `{val = 0, set = 0, rsv = 0}` (R260). -/
def Grid.clear : Grid := Vector.replicate Config.maxSize (Vector.replicate Config.maxSize Cell.clear)

/-- The contents of the codeword buffer: the bytes that something has written since power-on, offsets strictly rising.
An offset that is not listed is unwritten and has no value (R263; log entry 2). -/
abbrev Memory := List Host.Cell

/-- The canonical form of the codeword buffer: offsets strictly rise, and every offset is one of `CWB[0..1023]` (R43).
An unlisted offset reads as no value, so no listed byte can equal what an unlisted one reads as. -/
abbrev Memory.wf (m : Memory) : Prop :=
  m.Pairwise (fun x y => x.1 < y.1) ∧ ∀ x ∈ m, x.1 < Config.cwbBytes

/-- The whole architectural state (R32), less what is constant (`ID`, `EXP`, `LOG`, the two tables) or holds no value
(`CMD`, R37), and the model's own fields at the end. -/
structure State where
  /-- `CTRL.IE`, the one stored bit of `CTRL` (R35). -/
  ie : Bool
  /-- `STATUS` (R36). -/
  status : Status
  /-- `OPA`, `OPB`, `SRC`, `DST`, `LEN` (R38). -/
  ops : Operands
  /-- `RESULT` (R39). -/
  result : Word
  /-- `VERSION` (R39). -/
  version : Word
  /-- `PLACED` (R39). -/
  placed : Word
  /-- The module matrix `M` (R40). -/
  mtx : Grid
  /-- The coefficient registers `GEN[0..30]` (R42). -/
  gen : Vector Byte Config.genLength
  /-- The codeword buffer `CWB[0..1023]` (R43). -/
  cwb : Memory
  /-- The hidden `pending`: the command awaiting completion (R47). -/
  pending : Option Instr
  /-- The hidden operand latches (R47). -/
  latch : Operands
  /-- The MODEL's own: the data that the last host access returned; `none` after a write or before any access. -/
  resp : Option Word
  /-- The MODEL's own: the turns of the host and the engine that are still to come, first turn first (log entry 1). -/
  script : List Turn
  /-- The MODEL's own: how many free values have been drawn (log entry 5). -/
  draws : Nat
deriving DecidableEq, Repr

/-- Why the machine stops with a fault. -/
inductive Fault where
  /-- A host access that the block does not admit, at the named block address (R78). Raised by `busAccess`. Safe: the
  spec says that "A model treats it as a fault of the host program". -/
  | busError (a : Addr)
  /-- A host read or a command reads the named `CWB` offset, which nothing has written since power-on (R263). Raised by
  `readCwbWindow` and by the meanings of `RS_ENCODE`, `ILV` and `ZZ_PLACE`. Safe: the hardware goes on with an unspecified
  value, about which the model proves nothing. -/
  | unwrittenCwb (a : Nat)
deriving DecidableEq, Repr

/-- Why the model gives a step no meaning. -/
inductive Refusal where
  /-- An instruction that has no meaning yet, by its mnemonic: raised only by an arm of `exec`. Safe. No arm raises it:
  every command has its meaning. -/
  | notModelled (mnemonic : String)
deriving DecidableEq, Repr

/-- What `exec`, `step` and every operation that can stop answer. -/
abbrev Result := Host.Outcome State Fault Refusal

/-- All five operands 0, the reset value of the operand registers (R33) and of the latches (R47). -/
def Operands.zero : Operands := ⟨0, 0, 0, 0, 0⟩

/-- `STATUS = 0` (R33). -/
def Status.idle : Status := ⟨false, false, false, none⟩

/-- The machine right after power-on reset (R260), with no host access laid out and no free value drawn. -/
def State.reset : State where
  ie := false
  status := Status.idle
  ops := Operands.zero
  result := 0
  version := 0
  placed := 0
  mtx := Grid.clear
  gen := Vector.replicate Config.genLength 0
  cwb := []
  pending := none
  latch := Operands.zero
  resp := none
  script := []
  draws := 0

end Sys2Proof.Machine
end

