-- ==== Sys2Proof/Machine/Ops.lean ====
section
/-! DEFINITION. The named operations over the state: the codeword buffer, the matrix, the coefficient file, the result
registers, and the life of a command (latching, starting, raising an error, completing). -/

namespace Sys2Proof.Machine

/-! ### The codeword buffer (R43) -/

/-- The byte `CWB[a]`, if something has written it since power-on (R263). -/
def Memory.read : Memory → Nat → Option Byte
  | [], _ => none
  | (k, b) :: m, a => if k = a then some b else Memory.read m a

/-- The canonical list with offset `a` holding `v`. -/
def Memory.insert : Memory → Nat → Byte → Memory
  | [], a, v => [(a, v)]
  | (k, b) :: m, a, v =>
    if a < k then (a, v) :: (k, b) :: m
    else if a = k then (a, v) :: m
    else (k, b) :: Memory.insert m a v

/-- `CWB[a] <- v`. The buffer has the offsets 0..1023 only, and no access reaches another one (R75, R90). -/
def Memory.write (m : Memory) (a : Nat) (v : Byte) : Memory :=
  if a < Config.cwbBytes then m.insert a v else m

/-- `CWB[a + k] <- vs[k]` for every `k`. -/
def Memory.writeAll : Memory → Nat → List Byte → Memory
  | m, _, [] => m
  | m, a, v :: vs => Memory.writeAll (m.write a v) (a + 1) vs

/-- The snapshot `[CWB[a + k] for k in 0 .. n-1]`, or the first offset of it that nothing has written (R263). -/
def Memory.snapshot (m : Memory) : Nat → Nat → Except Nat (List Byte)
  | _, 0 => .ok []
  | a, n + 1 =>
    match m.read a with
    | none => .error a
    | some b =>
      match Memory.snapshot m (a + 1) n with
      | .ok bs => .ok (b :: bs)
      | .error e => .error e

/-! ### The module matrix (R40) -/

/-- The cell `M(r, c)`. Outside the 69 × 69 storage there is no cell; no command reads there (R185, R216), and the model
answers a clear one (log entry 8). -/
def Grid.cell (m : Grid) (r c : Nat) : Cell :=
  match m.toList[r]? with
  | some row => row.toList.getD c Cell.clear
  | none => Cell.clear

/-- `M(r, c) <- f(M(r, c))`; outside the storage there is nothing to change (log entry 8). -/
def Grid.update (m : Grid) (r c : Nat) (f : Cell → Cell) : Grid :=
  ⟨⟨m.toList.modify r fun row => ⟨⟨row.toList.modify c f⟩, by simp⟩⟩, by simp⟩

/-- `put(r, c, b)`: the cell gets the colour and is set and reserved (R181). -/
def Grid.put (m : Grid) (r c : Nat) (b : Bool) : Grid :=
  m.update r c fun _ => ⟨b, true, true⟩

/-- `M(r, c).rsv <- 1`; nothing else of the cell changes (R187). -/
def Grid.reserve (m : Grid) (r c : Nat) : Grid :=
  m.update r c fun x => ⟨x.val, x.set, true⟩

/-- `M(r, c).val <- b; M(r, c).set <- 1`; `rsv` does not change (R212). -/
def Grid.colour (m : Grid) (r c : Nat) (b : Bool) : Grid :=
  m.update r c fun x => ⟨b, true, x.rsv⟩

/-! ### The coefficient file (R42) -/

/-- `store_gen(g, n)`, where `g` has `n + 1` coefficients: `GEN[k]` is `g[k]`, and 0 above the last one (R141). -/
def genFile (g : List Byte) : Vector Byte Config.genLength :=
  ⟨⟨(List.range Config.genLength).map fun k => g.getD k 0⟩, by simp⟩

/-- `GEN[k]`. -/
def genCoefficient (gen : Vector Byte Config.genLength) (k : Nat) : Byte := gen.toList.getD k 0

/-! ### Writing one part of the state -/

def State.setGen (s : State) (g : List Byte) : State := { s with gen := genFile g }
def State.setCwb (s : State) (m : Memory) : State := { s with cwb := m }
def State.setMtx (s : State) (m : Grid) : State := { s with mtx := m }
def State.setResult (s : State) (w : Word) : State := { s with result := w }
def State.setVersion (s : State) (w : Word) : State := { s with version := w }
def State.setPlaced (s : State) (w : Word) : State := { s with placed := w }
def State.setIe (s : State) (b : Bool) : State := { s with ie := b }
def State.setOps (s : State) (o : Operands) : State := { s with ops := o }
def State.setScript (s : State) (ts : List Turn) : State := { s with script := ts }

/-- `STATUS.OVR <- 1`, the record of a dropped write (R234). -/
def State.setOvr (s : State) : State := { s with status := { s.status with ovr := true } }

/-- The response of a host access: the data of a read, or none (R13). -/
def State.respond (s : State) (r : Option Word) : State := { s with resp := r }

/-- `n` free values have been drawn (log entry 5). -/
def State.draw (s : State) (n : Nat) : State := { s with draws := s.draws + n }

/-! ### The life of a command (R232) -/

/-- An accepted `CMD` write clears `DONE` and `ERRCODE` and latches the operand registers (R232). -/
def State.latchOperands (s : State) : State :=
  { s with status := { s.status with done := false, errcode := none }, latch := s.ops }

/-- `pending <- op; STATUS.BUSY <- 1`, for an accepted command that passed its checks (R232). -/
def State.start (s : State) (i : Instr) : State :=
  { s with status := { s.status with busy := true }, pending := some i }

/-- `raise Error(e)`: the command ends at once, `STATUS.ERRCODE <- e`, `STATUS.DONE <- 1`, and no other state of the
command's changes (R14). The block takes no traps: there is no vector, no saved program counter and no return (R230). -/
def State.raiseError (s : State) (e : ErrCode) : State :=
  { s with status := { s.status with busy := false, done := true, errcode := some e }, pending := none }

/-- What follows the effect in the completion step: `pending <- none`, `STATUS.BUSY <- 0`, `STATUS.DONE <- 1`, and
`STATUS.ERRCODE` reads 0 (R232, R271, and the "Flags written" line of each command's rule). -/
def State.complete (s : State) : State :=
  { s with status := { s.status with busy := false, done := true, errcode := none }, pending := none }

/-- A command as its rule writes it: the first failing check is reported and nothing else happens (R14, R233), or the
effect is performed and the command completes (R271). An effect that reads an unwritten `CWB` byte faults (R263). -/
def State.perform (s : State) (check : State → Option ErrCode) (effect : State → Except Nat State) : Result :=
  match check s with
  | some e => .next (s.raiseError e)
  | none =>
    match effect s with
    | .ok s' => .next s'.complete
    | .error a => .fault (.unwrittenCwb a)

end Sys2Proof.Machine
end

