-- ==== Sys2Proof/Machine/Operands.lean ====
section
/-! DEFINITION. The operands that a command reads from its latches (R104), and the checks on them that R233 names. -/

namespace Sys2Proof.Machine

/-- `zext_32(v[7:0])` (R38). -/
def keep8 (v : Word) : Word := (v.extractLsb' 0 8).zeroExtend 32
/-- `zext_32(v[9:0])` (R38). -/
def keep10 (v : Word) : Word := (v.extractLsb' 0 10).zeroExtend 32
/-- `zext_32(v[10:0])` (R38). -/
def keep11 (v : Word) : Word := (v.extractLsb' 0 11).zeroExtend 32

/-- `a = L_OPA[7:0]`, the first factor of `GF_MUL` (R125). -/
def Operands.factorA (l : Operands) : Byte := l.opa.extractLsb' 0 8
/-- `b = L_OPB[7:0]`, the second factor of `GF_MUL` (R125). -/
def Operands.factorB (l : Operands) : Byte := l.opb.extractLsb' 0 8
/-- `n = L_OPA[7:0]`, the degree or ECC length (R142, R144). -/
def Operands.degree (l : Operands) : Nat := (l.opa.extractLsb' 0 8).toNat
/-- `v = L_OPA[7:0]`, the symbol version (R161, R180). -/
def Operands.symbolVersion (l : Operands) : Nat := (l.opa.extractLsb' 0 8).toNat
/-- `src = L_SRC[9:0]` (R104). -/
def Operands.source (l : Operands) : Nat := (l.src.extractLsb' 0 10).toNat
/-- `dst = L_DST[9:0]` (R104). -/
def Operands.dest (l : Operands) : Nat := (l.dst.extractLsb' 0 10).toNat
/-- `len = L_LEN[10:0]` (R104). -/
def Operands.length (l : Operands) : Nat := (l.len.extractLsb' 0 11).toNat

/-- `VERSION.VER`, bits 7:0; 0 means that no matrix has been built (R39). -/
def State.ver (s : State) : Nat := (s.version.extractLsb' 0 8).toNat
/-- `VERSION.SIZE`, bits 15:8 (R39). -/
def State.size (s : State) : Nat := (s.version.extractLsb' 8 8).toNat

/-- `n ∈ 1..MAX_DEG` (R233). -/
abbrev legalDegree (n : Nat) : Prop := 1 ≤ n ∧ n ≤ Config.maxDeg
/-- `v ∈ 1..13` (R233). -/
abbrev legalVersion (v : Nat) : Prop := Config.vMin ≤ v ∧ v ≤ Config.vMax
/-- The `n` bytes at offset `a` lie in `CWB`: `a + n ≤ 1024`, an exact sum that never wraps (R233). -/
abbrev inBuffer (a n : Nat) : Prop := a + n ≤ Config.cwbBytes

/-- The first failing check, in order (R233). -/
def firstError : List (Bool × ErrCode) → Option ErrCode
  | [] => none
  | (ok, e) :: rest => if ok then firstError rest else some e

end Sys2Proof.Machine
end

