-- ==== Sys2Proof/Machine/GaloisField.lean ====
section
/-! DEFINITION. The unit galois_field_mult: GF(256) arithmetic (R120, R124) and the meaning of `GF_MUL` (R125). -/

namespace Sys2Proof.Machine

/-- `gf_add(a, b) = a ^ b` (R120). -/
def gfAdd (a b : Byte) : Byte := a ^^^ b

/-- `gf_mul(a, b)`: 0 if either operand is 0, otherwise `EXP[LOG[a] + LOG[b]]` (R124). -/
def gfMul (a b : Byte) : Byte :=
  if a = 0 ∨ b = 0 then 0 else EXP (LOG a + LOG b)

/-- `GF_MUL` has no checks (R233). -/
def checkGfMul (_ : State) : Option ErrCode := none

/-- `RESULT <- zext_32(gf_mul(a, b))` (R125). -/
def effectGfMul (s : State) : Except Nat State :=
  .ok (s.setResult ((gfMul s.latch.factorA s.latch.factorB).zeroExtend 32))

/-- `GF_MUL`: GF(256) product (R125). -/
def execGfMul (s : State) : Result := s.perform checkGfMul effectGfMul

end Sys2Proof.Machine
end

