-- ==== Sys2Proof/Machine/ReedSolomon.lean ====
section
/-! DEFINITION. The unit reed_solomon_generator: generator polynomials (R140), the remainder (R143), and the meanings of
`RS_GENPOLY` (R142) and `RS_ENCODE` (R144). Polynomials are lists of coefficients, highest degree first (R15). -/

namespace Sys2Proof.Machine

/-- `g · (x + a)`: coefficient `j` is `g[j] ^ gf_mul(g[j-1], a)` (the inner loop of R140). -/
def mulByRoot (g : List Byte) (a : Byte) : List Byte :=
  List.zipWith gfAdd (g ++ [0]) (0 :: g.map fun c => gfMul c a)

/-- `genpoly(n) = (x + α^0)(x + α^1)…(x + α^(n−1))` (R140). -/
def genpoly (n : Nat) : List Byte :=
  (List.range n).foldl (fun g i => mulByRoot g (EXP i)) [0x01]

/-- One data byte through the remainder register: `f <- d ^ r[0]`, shift toward index 0, `r[i] <- r[i] ^ gf_mul(g[i+1], f)`
(the loop body of R143). -/
def remainderStep (g r : List Byte) (d : Byte) : List Byte :=
  List.zipWith (fun ri gi => gfAdd ri (gfMul gi (gfAdd d (r.headD 0)))) (r.tail ++ [0]) g.tail

/-- `rs_remainder(d, g)`, the `n` ECC bytes of the data `d`, where `g` has degree `n` (R143). -/
def rsRemainder (d g : List Byte) : List Byte :=
  d.foldl (remainderStep g) (List.replicate (g.length - 1) 0)

/-- `BAD_DEGREE` unless `n ∈ 1..30` (R233). -/
def checkRsGenpoly (s : State) : Option ErrCode :=
  firstError [(legalDegree s.latch.degree, .badDegree)]

/-- `store_gen(genpoly(n), n)` (R142). -/
def effectRsGenpoly (s : State) : Except Nat State :=
  .ok (s.setGen (genpoly s.latch.degree))

/-- `RS_GENPOLY`: build a generator polynomial (R142). -/
def execRsGenpoly (s : State) : Result := s.perform checkRsGenpoly effectRsGenpoly

/-- The degree, then the input region, then the output region (R233). -/
def checkRsEncode (s : State) : Option ErrCode :=
  firstError
    [(legalDegree s.latch.degree, .badDegree),
     (inBuffer s.latch.source s.latch.length, .badRange),
     (inBuffer s.latch.dest s.latch.degree, .badRange)]

/-- All inputs are read first; then `GEN` and the `n` ECC bytes at `dst` are written (R144). -/
def effectRsEncode (s : State) : Except Nat State := do
  let d ← s.cwb.snapshot s.latch.source s.latch.length
  let g := genpoly s.latch.degree
  return (s.setGen g).setCwb (s.cwb.writeAll s.latch.dest (rsRemainder d g))

/-- `RS_ENCODE`: compute ECC codewords (R144). -/
def execRsEncode (s : State) : Result := s.perform checkRsEncode effectRsEncode

end Sys2Proof.Machine
end

