-- ==== Sys2Proof/Machine/Interleaver.lean ====
section
/-! DEFINITION. The unit codeword_interleaver: slicing (R162), per-block ECC (R163), interleaving (R164, R165) and the meaning
of `ILV` (R161). -/

namespace Sys2Proof.Machine

/-- `count` successive chunks of `size` bytes of the data, the first at offset `start`. -/
def chunks (data : List Byte) (start size count : Nat) : List (List Byte) :=
  (List.range count).map fun j => (data.drop (start + j * size)).take size

/-- `slice(data, v)`: `b1(v)` chunks of `d1(v)` bytes, then `b2(v)` chunks of `d2(v)` bytes (R162). -/
def sliceBlocks (data : List Byte) (v : Nat) : List (List Byte) :=
  let t := blockTable v
  chunks data 0 t.d1 t.b1 ++ chunks data (t.b1 * t.d1) t.d2 t.b2

/-- The walk of R164: for each `i` below `width`, for each block in original order, the block's byte `i` if it has one. -/
def roundRobin (blocks : List (List Byte)) (width : Nat) : List Byte :=
  (List.range width).flatMap fun i => blocks.filterMap fun b => b[i]?

/-- `interleave(blk, eccb, v)`: the data codewords (R164), then the ECC codewords (R165). -/
def interleave (blk eccb : List (List Byte)) (v : Nat) : List Byte :=
  roundRobin blk (max (blockTable v).d1 (blockTable v).d2) ++ roundRobin eccb (blockTable v).ecc

/-- What `ILV` writes for the data codewords `data` of version `v`: slices, per-block ECC and interleaving (R161, R163). -/
def interleavedCodewords (data : List Byte) (v : Nat) : List Byte :=
  let blk := sliceBlocks data v
  let g := genpoly (blockTable v).ecc
  interleave blk (blk.map fun b => rsRemainder b g) v

/-- The version, then the input region, then the output region (R233). -/
def checkIlv (s : State) : Option ErrCode :=
  firstError
    [(legalVersion s.latch.symbolVersion, .badVersion),
     (inBuffer s.latch.source (dataCodewords s.latch.symbolVersion), .badRange),
     (inBuffer s.latch.dest (totalCodewords s.latch.symbolVersion), .badRange)]

/-- All inputs are read first; then `GEN` and the `totalCodewords(v)` bytes at `dst` are written (R161). -/
def effectIlv (s : State) : Except Nat State := do
  let v := s.latch.symbolVersion
  let data ← s.cwb.snapshot s.latch.source (dataCodewords v)
  return (s.setGen (genpoly (blockTable v).ecc)).setCwb
    (s.cwb.writeAll s.latch.dest (interleavedCodewords data v))

/-- `ILV`: split the data codewords into blocks, compute each block's ECC, and interleave (R161). -/
def execIlv (s : State) : Result := s.perform checkIlv effectIlv

end Sys2Proof.Machine
end

