-- ==== Sys2Proof/Machine/MatrixBuilder.lean ====
section
/-! DEFINITION. The unit qr_matrix_builder: the function patterns (R181–R190) and the meaning of `MTX_BUILD` (R180). -/

namespace Sys2Proof.Machine

/-- The loop `for r in rows, c in cols` over the matrix, rows outermost. -/
def overCells (rows cols : List Int) (m : Grid) (f : Grid → Int → Int → Grid) : Grid :=
  rows.foldl (fun m r => cols.foldl (fun m c => f m r c) m) m

/-- The colour of the finder's cell at offset `(dr, dc)`: black on the outer ring and in the 3 × 3 core of the 7 × 7 pattern,
white elsewhere, the separator included (R182). -/
def finderBlack (dr dc : Int) : Bool :=
  let inside := 0 ≤ dr ∧ dr ≤ 6 ∧ 0 ≤ dc ∧ dc ≤ 6
  let ring := dr = 0 ∨ dr = 6 ∨ dc = 0 ∨ dc = 6
  let core := 2 ≤ dr ∧ dr ≤ 4 ∧ 2 ≤ dc ∧ dc ≤ 4
  decide (inside ∧ (ring ∨ core))

/-- The offsets `−1 .. 7` of a finder's 9 × 9 footprint (R182). -/
def finderOffsets : List Int := [-1, 0, 1, 2, 3, 4, 5, 6, 7]

/-- `place_finder(R, C)` in a symbol of size `s`, clamped to the grid (R182). -/
def placeFinder (s : Nat) (R C : Int) (m : Grid) : Grid :=
  overCells finderOffsets finderOffsets m fun m dr dc =>
    if 0 ≤ R + dr ∧ R + dr < s ∧ 0 ≤ C + dc ∧ C + dc < s then
      m.put (R + dr).toNat (C + dc).toNat (finderBlack dr dc)
    else m

/-- The offsets `−2 .. 2` of an alignment pattern's 5 × 5 footprint (R185). -/
def alignOffsets : List Int := [-2, -1, 0, 1, 2]

/-- `max(abs(dr), abs(dc)) = 1` is the white ring of an alignment pattern; the rest is black (R185). -/
def alignBlack (dr dc : Int) : Bool := max dr.natAbs dc.natAbs != 1

/-- Some cell of the 5 × 5 footprint centred at `(R, C)` is already reserved (R185). -/
def alignOverlaps (m : Grid) (R C : Nat) : Bool :=
  alignOffsets.any fun dr => alignOffsets.any fun dc => (m.cell (R + dr).toNat (C + dc).toNat).rsv

/-- One alignment pattern centred at `(R, C)`, skipped if it would overlap an already reserved cell (R185). -/
def placeAlignment (R C : Nat) (m : Grid) : Grid :=
  if alignOverlaps m R C then m
  else
    overCells alignOffsets alignOffsets m fun m dr dc =>
      m.put (R + dr).toNat (C + dc).toNat (alignBlack dr dc)

/-- `place_alignments(v)`, over the cross product of the listed coordinates in table order (R185). -/
def placeAlignments (v : Nat) (m : Grid) : Grid :=
  (alignTable v).foldl (fun m R => (alignTable v).foldl (fun m C => placeAlignment R C m) m) m

/-- `put(r, c, b)` unless the cell is already reserved (R186). -/
def putUnreserved (m : Grid) (r c : Nat) (b : Bool) : Grid :=
  if (m.cell r c).rsv then m else m.put r c b

/-- `place_timing(s)`: row 6, then column 6, black at even indices (R186). -/
def placeTiming (s : Nat) (m : Grid) : Grid :=
  let row := (List.range s).foldl (fun m i => putUnreserved m 6 i (i % 2 == 0)) m
  (List.range s).foldl (fun m i => putUnreserved m i 6 (i % 2 == 0)) row

/-- `reserve_format(s)`: the strips around the top-left finder, then the cells next to the other two (R187). -/
def reserveFormat (s : Nat) (m : Grid) : Grid :=
  let strips := (List.range 9).foldl (fun m i => (m.reserve 8 i).reserve i 8) m
  (List.range 8).foldl (fun m i => (m.reserve 8 (s - 1 - i)).reserve (s - 1 - i) 8) strips

/-- `place_dark_module(s)` (R188). -/
def placeDarkModule (s : Nat) (m : Grid) : Grid := m.put (s - 8) 8 true

/-- One round of the bit-serial remainder loop: `rem <- (rem << 1) ^ ((rem[11] = 1) ? 0x1F25 : 0)` (R189). -/
def bchStep (rem : Word) : Word :=
  (rem <<< 1) ^^^ (if rem.getLsbD 11 then 0x1F25 else 0)

/-- `vbits(v)`, the 18-bit version information: `(v << 12) | rem[11:0]` after twelve rounds from `rem = v` (R189). -/
def versionBits (v : Nat) : BitVec 18 :=
  let rem := (List.range 12).foldl (fun r _ => bchStep r) (BitVec.ofNat 32 v)
  BitVec.ofNat 6 v ++ rem.extractLsb' 0 12

/-- `place_version(v, s)`: bit `i` at `(i/3, s−11+i%3)` and at its transpose (R190). -/
def placeVersion (v s : Nat) (m : Grid) : Grid :=
  (List.range 18).foldl
    (fun m i =>
      let a := s - 11 + i % 3
      let q := i / 3
      (m.put q a ((versionBits v).getLsbD i)).put a q ((versionBits v).getLsbD i)) m

/-- The matrix that `MTX_BUILD` leaves for version `v`: the steps of R180 in their order, from a cleared matrix (R181). -/
def builtMatrix (v : Nat) : Grid :=
  let s := symbolSize v
  let finders := placeFinder s ((s : Int) - 7) 0 (placeFinder s 0 ((s : Int) - 7) (placeFinder s 0 0 Grid.clear))
  let patterns := placeTiming s (placeAlignments v finders)
  let dark := placeDarkModule s (reserveFormat s patterns)
  if 7 ≤ v then placeVersion v s dark else dark

/-- The value of `VERSION` for version `v`: `zext_32(s << 8 | v)` (R180, R191). -/
def versionWord (v : Nat) : Word :=
  (BitVec.ofNat 32 (symbolSize v) <<< 8) ||| BitVec.ofNat 32 v

/-- `BAD_VERSION` unless `v ∈ 1..13` (R233). -/
def checkMtxBuild (s : State) : Option ErrCode :=
  firstError [(legalVersion s.latch.symbolVersion, .badVersion)]

/-- The built matrix, `VERSION`, and `PLACED <- 0` (R180). -/
def effectMtxBuild (s : State) : Except Nat State :=
  .ok (((s.setMtx (builtMatrix s.latch.symbolVersion)).setVersion (versionWord s.latch.symbolVersion)).setPlaced 0)

/-- `MTX_BUILD`: allocate the grid and place every function pattern (R180). -/
def execMtxBuild (s : State) : Result := s.perform checkMtxBuild effectMtxBuild

end Sys2Proof.Machine
end

