-- ==== Sys2Proof/Machine/ZigzagPlacer.lean ====
section
/-! DEFINITION. The unit data_zigzag_placer: the walk (R210), the bit stream (R211) and the meaning of `ZZ_PLACE` (R212). -/

namespace Sys2Proof.Machine

/-- The rows of one column pair in walk order: bottom to top when `up`, else top to bottom (R210). -/
def walkRows (s : Nat) (up : Bool) : List Nat :=
  (List.range s).map fun t => if up then s - 1 - t else t

/-- The cells of the column pair `(right, right − 1)`, reserved ones included: right then left at each row (R210). -/
def pairCells (s right : Nat) (up : Bool) : List (Nat × Nat) :=
  (walkRows s up).flatMap fun r => [(r, right), (r, right - 1)]

/-- The loop `while right >= 1`, in which `right` falls by 2 each time round; `fuel` bounds the rounds (R210). -/
def walkPairs (s : Nat) : Nat → Nat → Bool → List (Nat × Nat)
  | 0, _, _ => []
  | fuel + 1, right, up =>
    if right < 1 then []
    else
      let right := if right = 6 then 5 else right
      pairCells s right up ++ walkPairs s fuel (right - 2) (!up)

/-- `walk(s)`: the free cells in the order in which the placer visits them (R210). -/
def walk (m : Grid) (s : Nat) : List (Nat × Nat) :=
  (walkPairs s s (s - 1) true).filter fun p => !(m.cell p.1 p.2).rsv

/-- `bit(k)` of the codeword stream: bit `7 − (k % 8)` of codeword `k / 8`, most significant bit first (R82, R211), and 0
once the stream is used up (R213). -/
def streamBit (stream : List Byte) (k : Nat) : Bool :=
  (stream.getD (k / 8) 0).getLsbD (7 - k % 8)

/-- Threads the stream through the cells, the first of which takes bit `k` (the loop of R212). -/
def thread (stream : List Byte) : Nat → List (Nat × Nat) → Grid → Grid
  | _, [], m => m
  | k, (r, c) :: cells, m => thread stream (k + 1) cells (m.colour r c (streamBit stream k))

/-- `zext_32(cells << 16 | bits)`, the value of `PLACED` (R212, R214). -/
def placedWord (cells bits : Nat) : Word :=
  (BitVec.ofNat 32 cells <<< 16) ||| BitVec.ofNat 32 bits

/-- `NO_MATRIX`, then the input region (R233). -/
def checkZzPlace (s : State) : Option ErrCode :=
  firstError
    [(s.ver != 0, .noMatrix),
     (inBuffer s.latch.source s.latch.length, .badRange)]

/-- Every free cell of the walk gets its bit, or 0 after the last bit; `PLACED` reports the counts (R212–R214). -/
def effectZzPlace (s : State) : Except Nat State := do
  let stream ← s.cwb.snapshot s.latch.source s.latch.length
  let cells := walk s.mtx s.size
  return (s.setMtx (thread stream 0 cells s.mtx)).setPlaced
    (placedWord cells.length (min (8 * s.latch.length) cells.length))

/-- `ZZ_PLACE`: thread the codeword bit stream through the free cells (R212). -/
def execZzPlace (s : State) : Result := s.perform checkZzPlace effectZzPlace

end Sys2Proof.Machine
end

