-- ==== Sys2Proof/Machine/Checks.lean ====
section
/-! DEFINITION. The checks that every command makes at its acceptance (R233). -/

namespace Sys2Proof.Machine

/-- `check(op)`: the error code of the first failing check of the command, on the latched operands and, for `ZZ_PLACE`,
`VERSION` (R233). -/
def check (i : Instr) (s : State) : Option ErrCode :=
  match i with
  | .gfMul => checkGfMul s
  | .rsGenpoly => checkRsGenpoly s
  | .rsEncode => checkRsEncode s
  | .ilv => checkIlv s
  | .mtxBuild => checkMtxBuild s
  | .zzPlace => checkZzPlace s

end Sys2Proof.Machine
end

