-- ==== Sys2Proof/Machine/Flags.lean ====
section
/-! DEFINITION. The fields of `STATUS` and `CTRL` as software reads and writes them, and the interrupt line. -/

namespace Sys2Proof.Machine

/-- The number of an error code (R231). -/
def ErrCode.code : ErrCode → BitVec 4
  | .badCmd => 1
  | .badVersion => 2
  | .badDegree => 3
  | .badRange => 4
  | .noMatrix => 5

/-- `STATUS.ERRCODE`: 0 when the last command completed without error (R231). -/
def Status.errField (st : Status) : BitVec 4 :=
  match st.errcode with
  | none => 0
  | some e => e.code

/-- `STATUS.ERR`, which reads as `(ERRCODE != 0)` (R36). -/
def Status.err (st : Status) : Bool := st.errField != 0

/-- The word a read of `STATUS` returns: `ERRCODE` in bits 11:8, `OVR`, `ERR`, `DONE` and `BUSY` in bits 3, 2, 1 and 0, and
the reserved bits 0 (R36). -/
def Status.word (st : Status) : Word :=
  (0 : BitVec 20) ++ st.errField ++ (0 : BitVec 4) ++ BitVec.ofBool st.ovr ++ BitVec.ofBool st.err ++
    BitVec.ofBool st.done ++ BitVec.ofBool st.busy

/-- A write to `STATUS`: bit 1 clears `DONE`, bit 3 clears `OVR`, and every other bit is ignored (R36). -/
def Status.acknowledge (st : Status) (w : Word) : Status :=
  { st with done := st.done && !w.getLsbD 1, ovr := st.ovr && !w.getLsbD 3 }

/-- The word a read of `CTRL` returns: `IE` in bit 0; `SRST` always reads 0 (R35). -/
def State.ctrlWord (s : State) : Word := (0 : BitVec 31) ++ BitVec.ofBool s.ie

/-- The interrupt line `IRQ = CTRL.IE & STATUS.DONE`, a level (R237). -/
def State.irq (s : State) : Bool := s.ie && s.status.done

end Sys2Proof.Machine
end

