-- ==== Sys2Proof/Machine/Bus.lean ====
section
/-! DEFINITION. The host's side: the address map (R71), register and window accesses (R72–R80) with the hazards of R266–R268,
the issue of a command (R232), and the soft reset (R261, R262). -/

namespace Sys2Proof.Machine

/-! ### The address map (R71) -/

/-- The registers of the map (R33). -/
inductive Reg where
  | id | ctrl | status | cmd | opa | opb | src | dst | len | result | version | placed
deriving DecidableEq, Repr

/-- The register at a byte offset below `0x100`; the offsets from `0x030` on are reserved (R33). -/
def regAt (off : Nat) : Option Reg :=
  match off with
  | 0x000 => some .id
  | 0x004 => some .ctrl
  | 0x008 => some .status
  | 0x00C => some .cmd
  | 0x010 => some .opa
  | 0x014 => some .opb
  | 0x018 => some .src
  | 0x01C => some .dst
  | 0x020 => some .len
  | 0x024 => some .result
  | 0x028 => some .version
  | 0x02C => some .placed
  | _ => none

/-- What a byte address at or above `0x100` reaches. -/
inductive Window where
  | gen (k : Nat)
  | log (v : Byte)
  | cwb (a : Nat)
  | exp (i : Nat)
  | mtx (r c : Nat)
  | reserved
deriving DecidableEq, Repr

/-- The byte ranges of the address map; `MTX` has a row stride of 69 for every version (R71, R73–R77). -/
def windowAt (a : Nat) : Window :=
  if 0x0100 ≤ a ∧ a ≤ 0x011E then .gen (a - 0x0100)
  else if 0x0200 ≤ a ∧ a ≤ 0x02FF then .log (BitVec.ofNat 8 (a - 0x0200))
  else if 0x0400 ≤ a ∧ a ≤ 0x07FF then .cwb (a - 0x0400)
  else if 0x0800 ≤ a ∧ a ≤ 0x09FF then .exp (a - 0x0800)
  else if 0x1000 ≤ a ∧ a ≤ 0x2298 then .mtx ((a - 0x1000) / 69) ((a - 0x1000) % 69)
  else .reserved

/-- The two kinds of access that the block admits (R78). -/
def admitted (a : Access) : Bool :=
  match a.size with
  | .word => decide (a.addr.toNat < 0x100 ∧ a.addr.toNat % 4 = 0)
  | .byte => decide (0x100 ≤ a.addr.toNat)
  | .half => false

/-! ### Reads (R72–R77, R79, R266) -/

/-- The value of a register at rest: `CMD` holds no value and reads 0 (R34–R39). -/
def State.regValue (s : State) : Reg → Word
  | .id => Config.idValue
  | .ctrl => s.ctrlWord
  | .status => s.status.word
  | .cmd => 0
  | .opa => s.ops.opa
  | .opb => s.ops.opb
  | .src => s.ops.src
  | .dst => s.ops.dst
  | .len => s.ops.len
  | .result => s.result
  | .version => s.version
  | .placed => s.placed

/-- The registers whose reads are not exact while `STATUS.BUSY = 1` (R266). -/
def Reg.volatile : Reg → Bool
  | .result => true
  | .version => true
  | .placed => true
  | .id => false
  | .ctrl => false
  | .status => false
  | .cmd => false
  | .opa => false
  | .opb => false
  | .src => false
  | .dst => false
  | .len => false

/-- The cell byte `zext_8(rsv << 2 | set << 1 | val)` (R77). -/
def Cell.byte (x : Cell) : Byte :=
  (0 : BitVec 5) ++ BitVec.ofBool x.rsv ++ BitVec.ofBool x.set ++ BitVec.ofBool x.val

/-- The read of a register or of a reserved register offset (R72, R79), a free value where R266 says so. -/
def readReg (off : Nat) (s : State) : State :=
  match regAt off with
  | none => s.respond (some 0)
  | some r =>
    if r.volatile && s.status.busy then (s.respond (some (Config.freeWord s.draws))).draw 1
    else s.respond (some (s.regValue r))

/-- A byte as the data of an 8-bit read. -/
def State.respondByte (s : State) (b : Byte) : State := s.respond (some (b.zeroExtend 32))

/-- A read of a `GEN`, `CWB` or `MTX` byte while `STATUS.BUSY = 1` returns a free value, drawn afresh (R266). -/
def State.respondFreeByte (s : State) : State := (s.respondByte (Config.freeByte s.draws)).draw 1

/-- The read of `CWB[a]` (R75), which faults where nothing has written the byte since power-on (R263). -/
def readCwbWindow (a : Nat) (s : State) : Result :=
  if s.status.busy then .next s.respondFreeByte
  else
    match s.cwb.read a with
    | some b => .next (s.respondByte b)
    | none => .fault (.unwrittenCwb a)

/-- The 8-bit read of a window (R73–R77) or of a reserved byte (R79). -/
def readWindow (w : Window) (s : State) : Result :=
  match w with
  | .gen k => .next (if s.status.busy then s.respondFreeByte else s.respondByte (genCoefficient s.gen k))
  | .log v => .next (s.respondByte (BitVec.ofNat 8 (LOG v)))
  | .cwb a => readCwbWindow a s
  | .exp i => .next (s.respondByte (EXP i))
  | .mtx r c => .next (if s.status.busy then s.respondFreeByte else s.respondByte (s.mtx.cell r c).byte)
  | .reserved => .next (s.respondByte 0)

/-! ### Writes (R72, R75, R79, R80, R268) -/

/-- The output region in `CWB` of the pending command, its first offset and its length (R262). -/
def State.outputRegion (s : State) : Nat × Nat :=
  match s.pending with
  | some .rsEncode => (s.latch.dest, s.latch.degree)
  | some .ilv => (s.latch.dest, totalCodewords s.latch.symbolVersion)
  | some .gfMul => (0, 0)
  | some .rsGenpoly => (0, 0)
  | some .mtxBuild => (0, 0)
  | some .zzPlace => (0, 0)
  | none => (0, 0)

/-- `n` free bytes, one draw each (R262). -/
def State.freeBytes (s : State) (n : Nat) : List Byte :=
  (List.range n).map fun k => Config.freeByte (s.draws + k)

/-- `CWB` after the pending command, if any, is cancelled: its output region holds free values (R262). -/
def State.cancelledCwb (s : State) : Memory :=
  s.cwb.writeAll s.outputRegion.1 (s.freeBytes s.outputRegion.2)

/-- The soft reset: every item of the power-on state except `CWB` (R261, R262). The turns still to come are the
environment's, and stay. -/
def State.softReset (s : State) : State :=
  { State.reset with
    cwb := s.cancelledCwb
    script := s.script
    draws := s.draws + s.outputRegion.2 }

/-- A write to `CTRL`: `SRST = 1` performs the soft reset, whatever the written `IE` bit; otherwise `IE <- wdata[0]`
(R35). -/
def writeCtrl (w : Word) (s : State) : State :=
  if w.getLsbD 1 then s.softReset else s.setIe (w.getLsbD 0)

/-- A write to `STATUS` clears `DONE` and `OVR` where it has a 1 (R36). -/
def writeStatus (w : Word) (s : State) : State := { s with status := s.status.acknowledge w }

/-- The command `i` accepted with its checks passed: operands latched, `pending` and `BUSY` set (R232). -/
def State.accept (s : State) (i : Instr) : State := s.latchOperands.start i

/-- A write of the word `w` to `CMD`: dropped with `OVR` while `BUSY = 1`; else accepted, and ended at once by an error, or
pending (R232, R267). -/
def issueCommand (w : Word) (s : State) : State :=
  if s.status.busy then s.setOvr
  else
    match decode w with
    | .illegal => s.latchOperands.raiseError .badCmd
    | .command i =>
      match check i s.latchOperands with
      | some e => s.latchOperands.raiseError e
      | none => s.accept i

/-- The effect of writing a register. An operand register keeps its implemented bits (R38); a write to a read-only register
is ignored (R80). -/
def writeReg (r : Reg) (w : Word) (s : State) : State :=
  match r with
  | .ctrl => writeCtrl w s
  | .status => writeStatus w s
  | .cmd => issueCommand w s
  | .opa => s.setOps { s.ops with opa := keep8 w }
  | .opb => s.setOps { s.ops with opb := keep8 w }
  | .src => s.setOps { s.ops with src := keep10 w }
  | .dst => s.setOps { s.ops with dst := keep10 w }
  | .len => s.setOps { s.ops with len := keep11 w }
  | .id => s
  | .result => s
  | .version => s
  | .placed => s

/-- A 32-bit write at a register offset; a reserved offset ignores it (R72, R79). -/
def writeRegAt (off : Nat) (w : Word) (s : State) : State :=
  match regAt off with
  | none => s
  | some r => writeReg r w s

/-- An 8-bit write: `CWB[a] <- b`, dropped with `OVR` while `BUSY = 1` (R75, R268); every other window is read-only, and
reserved bytes ignore it (R79, R80). -/
def writeWindow (w : Window) (b : Byte) (s : State) : State :=
  match w with
  | .cwb a => if s.status.busy then s.setOvr else s.setCwb (s.cwb.write a b)
  | .gen _ => s
  | .log _ => s
  | .exp _ => s
  | .mtx _ _ => s
  | .reserved => s

/-! ### One host access -/

/-- A read or a write that the block admits. Only `wdata[7:0]` of a byte write counts (R75); a write returns no data. -/
def admittedAccess (a : Access) (s : State) : Result :=
  match a with
  | .read addr .word => .next (readReg addr.toNat s)
  | .read addr .byte => readWindow (windowAt addr.toNat) s
  | .read addr .half => .fault (.busError addr)
  | .write addr .word data => .next ((writeRegAt addr.toNat data s).respond none)
  | .write addr .byte data => .next ((writeWindow (windowAt addr.toNat) (data.extractLsb' 0 8) s).respond none)
  | .write addr .half _ => .fault (.busError addr)

/-- One host bus access, with all of its effects (R84); one that the block does not admit raises `BusError` (R78). -/
def busAccess (a : Access) (s : State) : Result :=
  if admitted a then admittedAccess a s else .fault (.busError a.addr)

end Sys2Proof.Machine
end

