-- ==== Sys2Proof/Machine/Dispatch.lean ====
section
/-! DEFINITION. One arm for each command of the opcode map (R102): what the engine does when it performs that command. -/

namespace Sys2Proof.Machine

def exec (i : Instr) (s : State) : Host.Outcome State Fault Refusal :=
  match i with
  | .gfMul => Sys2Proof.Machine.execGfMul s
  | .rsGenpoly => Sys2Proof.Machine.execRsGenpoly s
  | .rsEncode => Sys2Proof.Machine.execRsEncode s
  | .ilv => Sys2Proof.Machine.execIlv s
  | .mtxBuild => Sys2Proof.Machine.execMtxBuild s
  | .zzPlace => Sys2Proof.Machine.execZzPlace s

end Sys2Proof.Machine
end

