-- ==== Sys2Proof/Machine/Engine.lean ====
section
/-! DEFINITION. The engine's step and the turns of the schedule (R30, R271). -/

namespace Sys2Proof.Machine

/-- The engine's completion step, "enabled exactly when `pending ≠ none`": it performs the pending command; where it is not
enabled, nothing happens (R271). -/
def completionStep (s : State) : Result :=
  match s.pending with
  | some i => exec i s
  | none => .next s

/-- One turn: a host access, with the completion step right after it where the schedule says so, or the engine's turn. -/
def runTurn (t : Turn) (s : State) : Result :=
  match t with
  | .engine => completionStep s
  | .access a completes =>
    match busAccess a s with
    | .next s' => if completes then completionStep s' else .next s'
    | .fault f => .fault f
    | .refused r => .refused r

/-- The next turn of the schedule. When the host has no access left to make, the engine moves: a pending command eventually
completes (R271; log entry 1), and an idle block keeps its state (R246). -/
def nextTurn (s : State) : Result :=
  match s.script with
  | [] => completionStep s
  | t :: ts => runTurn t (s.setScript ts)

/-- The turn in which the host writes the command word `w` to `CMD` and the engine completes the command before the next
access. -/
def commandTurn (w : Word) : Turn := .access (.write 0x000C .word w) true

/-- The block with no command pending, and the turn of the command word `w` the first to come. -/
def State.withCommand (s : State) (w : Word) : State :=
  { s with
    status := { s.status with busy := false }
    pending := none
    script := commandTurn w :: s.script }

end Sys2Proof.Machine
end

