-- ==== Sys2Proof/Machine/Step.lean ====
section
/-! DEFINITION. One step of the machine: the next turn of the host or the engine. -/

namespace Sys2Proof.Machine

/-- One step: the next turn of the schedule (R30, R84, R271). -/
def step : State → Host.Outcome State Fault Refusal := nextTurn

/-- `s` with the command word of an opcode-table row in the host's next access, so that the next step issues and performs it.
The block fetches no instruction: a command is the data of a write to `CMD` (R31, R37; log entry 6). -/
def State.withFetchWord (s : State) (nbits w : Nat) : State := s.withCommand (tableWord nbits w)

end Sys2Proof.Machine
end

