-- ==== Sys2Proof/Safety.lean ====
section
/-! DEFINITION. What counts as a safe run, and the invariants of the block in the terms that the claims use. -/

namespace Sys2Proof

/-- A host access that performs the soft reset: a write to `CTRL` with `wdata[1] = 1` (R35). -/
def Access.softResets : Access → Bool
  | .write a .word w => a == 0x0004 && w.getLsbD 1
  | .write _ .byte _ => false
  | .write _ .half _ => false
  | .read _ _ => false

end Sys2Proof

namespace Sys2Proof.Machine

/-! ### Safe runs -/

/-- The run of `k` steps stops neither with a fault nor with a refusal. -/
def State.safeFor (s : State) (k : Nat) : Prop := ∃ t, Sys2Proof.core.run k s = .next t

/-! ### The invariants -/

/-- The unimplemented bits of the five operand values are 0 (R33, R38, R104). -/
def Operands.reservedZero (o : Operands) : Prop :=
  o.opa.toNat < 2 ^ 8 ∧ o.opb.toNat < 2 ^ 8 ∧ o.src.toNat < 2 ^ 10 ∧ o.dst.toNat < 2 ^ 10 ∧ o.len.toNat < 2 ^ 11

/-- The bits that the rule of a register does not name read 0: in the operand registers and their latches, in `RESULT`
and in `VERSION` (R33, R38, R39). -/
def State.ReservedBitsZero (s : State) : Prop :=
  s.ops.reservedZero ∧ s.latch.reservedZero ∧ s.result.toNat < 2 ^ 8 ∧ s.version.toNat < 2 ^ 16

/-- `pending ≠ none` exactly when `STATUS.BUSY = 1` (R47). -/
def State.BusyMatchesPending (s : State) : Prop := s.status.busy = s.pending.isSome

/-- A pending command has passed its checks (R232), and no completion is recorded while it runs (R36, R232). -/
def State.PendingSound (s : State) : Prop :=
  ∀ i, s.pending = some i → check i s = none ∧ s.status.done = false ∧ s.status.errcode = none

/-- `VERSION` is 0, or holds a legal version and its size (R39). -/
def State.VersionLegal (s : State) : Prop :=
  s.version = 0 ∨ ∃ v, legalVersion v ∧ s.version = versionWord v

/-- `set = 0 ⇒ val = 0` in every cell (R40). -/
def State.UnsetCellsWhite (s : State) : Prop :=
  ∀ r c, (s.mtx.cell r c).set = false → (s.mtx.cell r c).val = false

/-- The reserved grid is the one that `MTX_BUILD` placed for the version in `VERSION`, and each of its cells is as
`MTX_BUILD` left it: no data placement ever overwrites one (R41, R49, R212). With no matrix built, no cell is reserved. -/
def State.PatternsIntact (s : State) : Prop :=
  ∀ r c,
    (s.mtx.cell r c).rsv = (s.ver != 0 && ((builtMatrix s.ver).cell r c).rsv) ∧
      ((s.mtx.cell r c).rsv = true → s.mtx.cell r c = (builtMatrix s.ver).cell r c)

/-- The cells outside the symbol are clear (R41). -/
def State.OutsideClear (s : State) : Prop :=
  ∀ r c, s.size ≤ r ∨ s.size ≤ c → s.mtx.cell r c = Cell.clear

/-- The invariant of the block: what every step keeps. -/
structure State.Inv (s : State) : Prop where
  reserved : s.ReservedBitsZero
  busy : s.BusyMatchesPending
  pending : s.PendingSound
  version : s.VersionLegal
  white : s.UnsetCellsWhite
  intact : s.PatternsIntact
  outside : s.OutsideClear
  memory : s.cwb.wf

end Sys2Proof.Machine
end

