-- ==== Sys2Proof/Certificates/Slice0/Obligations.lean ====
section
/-! DEFINITION. What is claimed of the model: the statements for the provers, each citing the rule it formalises, and the
vocabulary of the spec in which they are written (`Sys2Proof.Spec`), independent of the model's own operations. -/

namespace Sys2Proof.Spec

open Sys2Proof.Machine

/-- The next power of `α`: `x << 1`, and `^ 0x11D` if bit 8 of the 9-bit result is 1 (R121). -/
def double (x : Byte) : Byte :=
  let y : BitVec 9 := x.zeroExtend 9 <<< 1
  (if y.getLsbD 8 then y ^^^ 0x11D else y).truncate 8

/-- `α^i` by the doubling loop, from `α^0 = 1` (R121). -/
def alphaPow : Nat → Byte
  | 0 => 1
  | i + 1 => double (alphaPow i)

/-- The product of two bytes as polynomials over GF(2): bit `i` is the coefficient of `x^i` (R120). -/
def carrylessProduct (a b : Byte) : BitVec 15 :=
  (List.range 8).foldl (fun acc i => if b.getLsbD i then acc ^^^ (a.zeroExtend 15 <<< i) else acc) 0

/-- The remainder of a polynomial of degree below 15 modulo `PRIM_POLY = 0x11D` (R120), from the top coefficient down. -/
def modPrimPoly (p : BitVec 15) : Byte :=
  ((List.range 7).foldl
    (fun acc k => if acc.getLsbD (14 - k) then acc ^^^ ((0x11D : BitVec 15) <<< (6 - k)) else acc) p).truncate 8

/-- The value of a polynomial, coefficients highest degree first (R15), at a point of the field. -/
def evalPoly (p : List Byte) (x : Byte) : Byte :=
  p.foldl (fun acc c => gfMul acc x ^^^ c) 0

/-- The state after the completion step: `effected` is `s` with the command's effect, and then `pending` is none, `BUSY`
0, `DONE` 1 and `ERRCODE` 0, with `OVR` as it was (R232, R271). -/
def completed (effected : State) : State :=
  { effected with status := ⟨false, true, effected.status.ovr, none⟩, pending := none }

/-- The state after `raise Error(e)`: `ERRCODE` and `DONE`, nothing pending, and no other change (R14). -/
def failed (s : State) (e : ErrCode) : State :=
  { s with status := ⟨false, true, s.status.ovr, some e⟩, pending := none }

/-- The table of checks of R233, on the operands `o` and the field `VERSION.VER`. -/
def firstFailingCheck (i : Instr) (o : Operands) (ver : Nat) : Option ErrCode :=
  let n := o.opa.toNat % 256
  let src := o.src.toNat % 1024
  let dst := o.dst.toNat % 1024
  let len := o.len.toNat % 2048
  match i with
  | .gfMul => none
  | .rsGenpoly => if 1 ≤ n ∧ n ≤ 30 then none else some .badDegree
  | .rsEncode =>
    if ¬(1 ≤ n ∧ n ≤ 30) then some .badDegree
    else if src + len > 1024 then some .badRange
    else if dst + n > 1024 then some .badRange
    else none
  | .ilv =>
    if ¬(1 ≤ n ∧ n ≤ 13) then some .badVersion
    else if src + dataCodewords n > 1024 then some .badRange
    else if dst + totalCodewords n > 1024 then some .badRange
    else none
  | .mtxBuild => if 1 ≤ n ∧ n ≤ 13 then none else some .badVersion
  | .zzPlace =>
    if ver = 0 then some .noMatrix
    else if src + len > 1024 then some .badRange
    else none

/-- The first data codeword of block `j`: `b1` chunks of `d1`, then chunks of `d2` (R162). -/
def blockStart (v j : Nat) : Nat :=
  let t := blockTable v
  if j < t.b1 then j * t.d1 else t.b1 * t.d1 + (j - t.b1) * t.d2

/-- The number of data codewords of block `j` (R162). -/
def blockLength (v j : Nat) : Nat :=
  let t := blockTable v
  if j < t.b1 then t.d1 else t.d2

/-- The number of blocks, `B = b1 + b2` (R166). -/
def blockCount (v : Nat) : Nat := (blockTable v).b1 + (blockTable v).b2

/-- The output position of data byte `i` of block `j` (R166). -/
def dataPosition (v j i : Nat) : Nat :=
  let t := blockTable v
  if i < t.d1 then i * blockCount v + j else t.d1 * blockCount v + (j - t.b1)

/-- The output position of ECC byte `i` of block `j` (R166). -/
def eccPosition (v j i : Nat) : Nat := dataCodewords v + i * blockCount v + j

/-- The finder pattern, 1 = black, row by row (R183). -/
def finderRows : List (List Bool) :=
  [[true, true, true, true, true, true, true],
   [true, false, false, false, false, false, true],
   [true, false, true, true, true, false, true],
   [true, false, true, true, true, false, true],
   [true, false, true, true, true, false, true],
   [true, false, false, false, false, false, true],
   [true, true, true, true, true, true, true]]

/-- A cell of a function pattern with the given colour: set and reserved (R181). -/
def function (black : Bool) : Cell := ⟨black, true, true⟩

/-- The colour at `(r, c)` of an 8 × 8 finder square whose 7 × 7 pattern starts at `(R, C)`: the separator is white (R183). -/
def finderColour (R C r c : Nat) : Bool :=
  R ≤ r && C ≤ c && (finderRows.getD (r - R) []).getD (c - C) false

/-- The distance of two coordinates. -/
def gap (x y : Nat) : Nat := (x - y) + (y - x)

/-- The centre `(R, C)` of an alignment pattern whose 5 × 5 footprint holds `(r, c)`, if there is one: the cross product of the
coordinates without the three corners that the finders take (R185). -/
def alignmentCentre (v r c : Nat) : Option (Nat × Nat) :=
  let s := 4 * v + 17
  ((alignTable v).flatMap fun R => (alignTable v).map fun C => (R, C)).find? fun p =>
    decide (p ≠ (6, 6) ∧ p ≠ (6, s - 7) ∧ p ≠ (s - 7, 6) ∧ gap r p.1 ≤ 2 ∧ gap c p.2 ≤ 2)

/-- The cell that `MTX_BUILD` leaves at `(r, c)`, as the layout rules describe it with no order of steps: the finder squares
(R183), the version blocks (R190), the alignment patterns (R185), the timing patterns (R186), the dark module (R188), the
format area (R187), and clear cells elsewhere, inside and outside the symbol (R41, R181). -/
def layoutCell (v r c : Nat) : Cell :=
  let s := 4 * v + 17
  if s ≤ r ∨ s ≤ c then ⟨false, false, false⟩
  else if r < 8 ∧ c < 8 then function (finderColour 0 0 r c)
  else if r < 8 ∧ s - 8 ≤ c then function (finderColour 0 (s - 7) r c)
  else if s - 8 ≤ r ∧ c < 8 then function (finderColour (s - 7) 0 r c)
  else if 7 ≤ v ∧ r < 6 ∧ s - 11 ≤ c ∧ c ≤ s - 9 then function ((versionBits v).getLsbD (3 * r + (c - (s - 11))))
  else if 7 ≤ v ∧ c < 6 ∧ s - 11 ≤ r ∧ r ≤ s - 9 then function ((versionBits v).getLsbD (3 * c + (r - (s - 11))))
  else
    match alignmentCentre v r c with
    | some p => function (max (gap r p.1) (gap c p.2) != 1)
    | none =>
      if r = 6 ∨ c = 6 then function ((r + c) % 2 == 0)
      else if r = s - 8 ∧ c = 8 then function true
      else if (r = 8 ∧ (c ≤ 8 ∨ s - 8 ≤ c)) ∨ (c = 8 ∧ (r ≤ 8 ∨ s - 8 ≤ r)) then ⟨false, false, true⟩
      else ⟨false, false, false⟩

/-- The number, in walk order, of the column pair that holds column `c` of a symbol of size `s`: `(s−1, s−2)` is pair 0, and the
three pairs left of column 6 follow `(8, 7)` (R210). -/
def pairNumber (s c : Nat) : Nat := if 6 < c then (s - 1 - c) / 2 else (s - 7) / 2 + (5 - c) / 2

/-- The place of column `c` in its pair: 0 for the right column, which comes first, and 1 for the left one (R210). -/
def columnInPair (s c : Nat) : Nat := if 6 < c then (s - 1 - c) % 2 else (5 - c) % 2

/-- When the walk visits the cell `(r, c)`, counted over all cells outside column 6, reserved ones included: pair by pair from
the right, bottom to top in the first pair and alternating from there, two cells in each row (R210). -/
def visitPosition (s r c : Nat) : Nat :=
  2 * s * pairNumber s c + 2 * (if pairNumber s c % 2 = 0 then s - 1 - r else r) + columnInPair s c

/-- The number of cells of the 69 × 69 storage that have a property. -/
def countCells (p : Nat → Nat → Bool) : Nat :=
  ((List.range 69).map fun r => ((List.range 69).filter fun c => p r c).length).sum

/-- The next turn is a host access that performs the soft reset (R35). -/
def softResetsNext (s : State) : Prop := ∃ a c ts, s.script = .access a c :: ts ∧ a.softResets = true

/-- The next turn holds the engine's completion step (log entry 1). -/
def completesNext (s : State) : Prop :=
  s.script = [] ∨ (∃ ts, s.script = .engine :: ts) ∨ ∃ a ts, s.script = .access a true :: ts

/-- The next turn completes `MTX_BUILD`: one is pending, or the host issues one to the idle block. -/
def buildsNext (s : State) : Prop :=
  completesNext s ∧
    (s.pending = some .mtxBuild ∨
      s.status.busy = false ∧ ∃ ts, s.script = .access (.write 0x000C .word 5) true :: ts)

/-- Two answers for one command agree in everything a command writes (R49), or are the same stop. -/
def sameCommandResult : Result → Result → Prop
  | .next t, .next u =>
    t.result = u.result ∧ t.gen = u.gen ∧ t.cwb = u.cwb ∧ t.mtx = u.mtx ∧ t.version = u.version ∧ t.placed = u.placed ∧
      t.pending = u.pending ∧ t.status.busy = u.status.busy ∧ t.status.done = u.status.done ∧
      t.status.errcode = u.status.errcode
  | .fault f, .fault g => f = g
  | .refused f, .refused g => f = g
  | .next _, .fault _ => False
  | .next _, .refused _ => False
  | .fault _, .next _ => False
  | .fault _, .refused _ => False
  | .refused _, .next _ => False
  | .refused _, .fault _ => False

end Sys2Proof.Spec

open Sys2Proof Sys2Proof.Machine Sys2Proof.Spec

/-! ### Encoding -/

/-- R103: a word decodes to a command exactly when it is that command's word, and is illegal otherwise. -/
def Obligations.DecodeMatchesExactlyTheTableWord : Prop :=
  (∀ (w : Word) (i : Instr), decode w = .command i ↔ w = encode i) ∧
  (∀ w : Word, decode w = .illegal ↔ ∀ i, w ≠ encode i) ∧
  encode .gfMul = 1 ∧ encode .rsGenpoly = 2 ∧ encode .rsEncode = 3 ∧ encode .ilv = 4 ∧ encode .mtxBuild = 5 ∧
  encode .zzPlace = 6

/-- R101, R102, R105: words written out bit by bit, `OPCODE` in the last eight bits, decode to their commands; the word
0, the first unassigned opcode and a word with a reserved bit are illegal. -/
def Obligations.SpecWordsDecode : Prop :=
  decode 0b00000000000000000000000000000001 = .command .gfMul ∧
  decode 0b00000000000000000000000000000010 = .command .rsGenpoly ∧
  decode 0b00000000000000000000000000000011 = .command .rsEncode ∧
  decode 0b00000000000000000000000000000100 = .command .ilv ∧
  decode 0b00000000000000000000000000000101 = .command .mtxBuild ∧
  decode 0b00000000000000000000000000000110 = .command .zzPlace ∧
  decode 0b00000000000000000000000000000000 = .illegal ∧
  decode 0b00000000000000000000000000000111 = .illegal ∧
  decode 0b00000000000000000000000100000001 = .illegal

/-- R105: the illegal words are those with a reserved bit or an unassigned opcode, and the write of one to `CMD` of an idle
block is accepted and ends at once with `BAD_CMD`, code 1. -/
def Obligations.IllegalWordEndsAtOnceWithBadCmd : Prop :=
  (∀ w : Word, decode w = .illegal ↔ w.toNat / 256 ≠ 0 ∨ w.toNat % 256 = 0 ∨ 7 ≤ w.toNat % 256) ∧
  ∀ (s : State) (w : Word) (c : Bool) (ts : List Turn),
    s.script = .access (.write 0x000C .word w) c :: ts → s.status.busy = false → s.pending = none →
      decode w = .illegal →
        step s = .next (failed { s with latch := s.ops, script := ts, resp := none } .badCmd) ∧
          ErrCode.badCmd.code = 1

/-! ### GF(256) -/

/-- R121, R122: `EXP` holds the powers of `α` that the doubling loop yields, the first 255 are the 255 non-zero bytes, and
the table repeats after 255 entries, beyond every index that a product reads. -/
def Obligations.ExpTableIsThePowersOfAlpha : Prop :=
  (∀ i ≤ 254, EXP i = alphaPow i) ∧ alphaPow 255 = 1 ∧
  (∀ v : Byte, v ≠ 0 → ∃ i ≤ 254, EXP i = v) ∧
  (∀ i ≤ 254, EXP i ≠ 0 ∧ ∀ j ≤ 254, EXP i = EXP j → i = j) ∧
  (∀ i, 255 ≤ i → i ≤ 511 → EXP i = EXP (i - 255)) ∧
  (∀ i ≤ 511, EXP i = alphaPow (i % 255)) ∧
  (∀ a b : Byte, LOG a + LOG b < 510)

/-- R123: `LOG` inverts `EXP` on the non-zero bytes, with `LOG[1] = 0`; `LOG[0]` is stored as 0. -/
def Obligations.LogInvertsExp : Prop :=
  (∀ v : Byte, v ≠ 0 → LOG v ≤ 254 ∧ EXP (LOG v) = v ∧ ∀ i ≤ 254, EXP i = v → i = LOG v) ∧
  LOG 1 = 0 ∧ LOG 0 = 0

/-- R124: the product is 0 if a factor is 0, otherwise the table entry at an index of at most 508; and it is the product of
the two bytes as polynomials modulo `0x11D`. -/
def Obligations.GfMulIsThePolynomialProduct : Prop :=
  ∀ a b : Byte,
    (a = 0 ∨ b = 0 → gfMul a b = 0) ∧
    (a ≠ 0 → b ≠ 0 → gfMul a b = EXP (LOG a + LOG b) ∧ LOG a + LOG b ≤ 508) ∧
    gfMul a b = modPrimPoly (carrylessProduct a b)

/-- R126: the laws of the field. -/
def Obligations.GfMulFieldLaws : Prop :=
  (∀ a b : Byte, gfMul a b = gfMul b a) ∧
  (∀ a b c : Byte, gfMul (gfMul a b) c = gfMul a (gfMul b c)) ∧
  (∀ a b c : Byte, gfMul a (b ^^^ c) = gfMul a b ^^^ gfMul a c) ∧
  (∀ a : Byte, gfMul 1 a = a ∧ gfMul 0 a = 0) ∧
  (∀ a b : Byte, gfMul a b = 0 ↔ a = 0 ∨ b = 0) ∧
  (∀ a : Byte, a ≠ 0 → gfMul a (EXP (255 - LOG a)) = 1) ∧
  (∀ i j : Nat, i ≤ 254 → j ≤ 254 → gfMul (EXP i) (EXP j) = EXP ((i + j) % 255))

/-- R125: `GF_MUL` completes in every state; it writes `RESULT` and the completion flags, and nothing else changes. -/
def Obligations.GfMulCompletes : Prop :=
  decode 0x00000001 = .command .gfMul ∧
  (∀ s : State,
    exec .gfMul s =
      .next (completed
        { s with result := (gfMul (s.latch.opa.extractLsb' 0 8) (s.latch.opb.extractLsb' 0 8)).zeroExtend 32 })) ∧
  (∀ b : Byte, gfMul 0 b = 0 ∧ gfMul b 0 = 0 ∧ gfMul 1 b = b) ∧
  gfMul 0x8E 0x8E = EXP 508 ∧ EXP 508 = 0x47 ∧ gfMul 0x02 0x80 = 0x1D

/-! ### Reed-Solomon -/

/-- R140: the generator of degree `n` has `n + 1` coefficients, the leading one 1, and the roots `α^0 … α^(n−1)`; the order of
the multiplications does not change the result. -/
def Obligations.GenpolyHasItsRoots : Prop :=
  (∀ n, (genpoly n).length = n + 1 ∧ (genpoly n).head? = some 1 ∧
    ∀ i < n, evalPoly (genpoly n) (EXP i) = 0) ∧
  ∀ (g : List Byte) (a b : Byte), mulByRoot (mulByRoot g a) b = mulByRoot (mulByRoot g b) a

/-- R142: for a degree in 1..30, `RS_GENPOLY` completes with the generator in `GEN`, zero above the degree, and changes nothing
else; for any other degree it raises `BAD_DEGREE`, code 3, and `GEN` is unchanged. The generators of degrees 1 and 2 are the
rule's own examples. In the error clause, that `exec` repeats the check of the acceptance is the model's choice (log entry 11),
and that it leaves `BUSY` 0 and nothing pending in every state is the model's inference (log entry 13). -/
def Obligations.RsGenpolyCompletes : Prop :=
  decode 0x00000002 = .command .rsGenpoly ∧ ErrCode.badDegree.code = 3 ∧
  genpoly 1 = [0x01, 0x01] ∧ genpoly 2 = [0x01, 0x03, 0x02] ∧
  ∀ (s : State) (n : Nat), n = s.latch.opa.toNat % 256 →
    ((1 ≤ n ∧ n ≤ 30) →
      ∃ t, exec .rsGenpoly s = .next t ∧ t = completed { s with gen := t.gen } ∧
        ∀ k ≤ 30, genCoefficient t.gen k = if k ≤ n then (genpoly n).getD k 0 else 0) ∧
    (¬(1 ≤ n ∧ n ≤ 30) → exec .rsGenpoly s = .next (failed s .badDegree))

/-- R144: on operands that pass the checks and a written input, `RS_ENCODE` completes: the `n` remainder bytes stand at `dst`,
the generator in `GEN`, every other byte of `CWB` and all other state as before. -/
def Obligations.RsEncodeCompletes : Prop :=
  ∀ (s : State) (n src dst len : Nat) (d : List Byte),
    n = s.latch.opa.toNat % 256 → src = s.latch.src.toNat % 1024 → dst = s.latch.dst.toNat % 1024 →
    len = s.latch.len.toNat % 2048 →
    1 ≤ n → n ≤ 30 → src + len ≤ 1024 → dst + n ≤ 1024 →
    d.length = len → (∀ k < len, s.cwb.read (src + k) = d[k]?) →
      ∃ t, exec .rsEncode s = .next t ∧ t = completed { s with gen := t.gen, cwb := t.cwb } ∧
        (∀ k ≤ 30, genCoefficient t.gen k = if k ≤ n then (genpoly n).getD k 0 else 0) ∧
        (rsRemainder d (genpoly n)).length = n ∧
        (∀ i < n, t.cwb.read (dst + i) = (rsRemainder d (genpoly n))[i]?) ∧
        (∀ a, a < dst ∨ dst + n ≤ a → t.cwb.read a = s.cwb.read a)

/-- R145: two runs of `RS_ENCODE` with equal data bytes and equal `n` write equal bytes, whatever the regions, the earlier
`GEN` or any other state holds. -/
def Obligations.RsEncodeIsPure : Prop :=
  ∀ s s' t t' : State,
    s.latch.opa.toNat % 256 = s'.latch.opa.toNat % 256 →
    s.latch.len.toNat % 2048 = s'.latch.len.toNat % 2048 →
    (∀ k < s.latch.len.toNat % 2048,
      s.cwb.read (s.latch.src.toNat % 1024 + k) = s'.cwb.read (s'.latch.src.toNat % 1024 + k)) →
    exec .rsEncode s = .next t → exec .rsEncode s' = .next t' → t.status.errcode = none → t'.status.errcode = none →
      ∀ i < s.latch.opa.toNat % 256,
        t.cwb.read (s.latch.dst.toNat % 1024 + i) = t'.cwb.read (s'.latch.dst.toNat % 1024 + i)

/-- R143: the ECC bytes are the remainder `D(x)·xⁿ mod g(x)`, so data and ECC together vanish at every root of the
generator, for data of any length. -/
def Obligations.RsCodewordVanishesAtTheRoots : Prop :=
  ∀ (d : List Byte) (n i : Nat), 1 ≤ n → i < n →
    (rsRemainder d (genpoly n)).length = n ∧
      evalPoly (d ++ rsRemainder d (genpoly n)) (EXP i) = 0

/-- R144, corner cases: the remainder is linear in the data; empty data and all-zero data give zero ECC bytes, and for
`n = 1` the one ECC byte is the exclusive or of the data. -/
def Obligations.RsRemainderIsLinear : Prop :=
  (∀ (d e g : List Byte), d.length = e.length →
    rsRemainder (List.zipWith (fun x y => x ^^^ y) d e) g =
      List.zipWith (fun x y => x ^^^ y) (rsRemainder d g) (rsRemainder e g)) ∧
  (∀ n k, rsRemainder (List.replicate k 0) (genpoly n) = List.replicate n 0) ∧
  (∀ d : List Byte, rsRemainder d (genpoly 1) = [d.foldl (fun x y => x ^^^ y) 0])

/-! ### The interleaver -/

/-- R161: on operands that pass the checks and a written input, `ILV` completes: the interleaved codewords stand at `dst`, the
generator of the version in `GEN`, every other byte of `CWB` and all other state as before. -/
def Obligations.IlvCompletes : Prop :=
  ∀ (s : State) (v src dst : Nat) (data : List Byte),
    v = s.latch.opa.toNat % 256 → src = s.latch.src.toNat % 1024 → dst = s.latch.dst.toNat % 1024 →
    1 ≤ v → v ≤ 13 → src + dataCodewords v ≤ 1024 → dst + totalCodewords v ≤ 1024 →
    data.length = dataCodewords v → (∀ k < dataCodewords v, s.cwb.read (src + k) = data[k]?) →
      ∃ t, exec .ilv s = .next t ∧ t = completed { s with gen := t.gen, cwb := t.cwb } ∧
        (∀ k ≤ 30, genCoefficient t.gen k =
          if k ≤ (blockTable v).ecc then (genpoly (blockTable v).ecc).getD k 0 else 0) ∧
        (interleavedCodewords data v).length = totalCodewords v ∧
        (∀ p < totalCodewords v, t.cwb.read (dst + p) = (interleavedCodewords data v)[p]?) ∧
        (∀ a, a < dst ∨ dst + totalCodewords v ≤ a → t.cwb.read a = s.cwb.read a)

/-- R166: where each data byte and each ECC byte of each block stands in the output, and every output position is that of
exactly one of them. The blocks are the slices of R162 and their ECC the remainders of R163. -/
def Obligations.InterleaverPositions : Prop :=
  ∀ (v : Nat) (data : List Byte), 1 ≤ v → v ≤ 13 → data.length = dataCodewords v →
    (interleavedCodewords data v).length = totalCodewords v ∧
    (∀ j i, j < blockCount v → i < blockLength v j →
      (interleavedCodewords data v)[dataPosition v j i]? = data[blockStart v j + i]?) ∧
    (∀ j i, j < blockCount v → i < (blockTable v).ecc →
      (interleavedCodewords data v)[eccPosition v j i]? =
        (rsRemainder ((data.drop (blockStart v j)).take (blockLength v j)) (genpoly (blockTable v).ecc))[i]?) ∧
    (∀ p < totalCodewords v,
      (∃! x : Nat × Nat, x.1 < blockCount v ∧ x.2 < blockLength v x.1 ∧ dataPosition v x.1 x.2 = p) ∧ p < dataCodewords v ∨
      (∃! x : Nat × Nat, x.1 < blockCount v ∧ x.2 < (blockTable v).ecc ∧ eccPosition v x.1 x.2 = p) ∧ dataCodewords v ≤ p)

/-! ### The matrix builder -/

/-- R180, R191: for a version in 1..13, `MTX_BUILD` completes with the built matrix, `VERSION.VER = v`, `VERSION.SIZE = 4·v + 17`
and `PLACED = 0`, and changes nothing else; for any other version it raises `BAD_VERSION`. In the error
clause, that `exec` repeats the check of the acceptance is the model's choice (log entry 11), and that it leaves `BUSY` 0 and
nothing pending in every state is the model's inference (log entry 13). -/
def Obligations.MtxBuildCompletes : Prop :=
  ∀ (s : State) (v : Nat), v = s.latch.opa.toNat % 256 →
    ((1 ≤ v ∧ v ≤ 13) →
      ∃ t, exec .mtxBuild s = .next t ∧
        t = completed { s with mtx := builtMatrix v, version := t.version, placed := 0 } ∧
        t.version.toNat % 256 = v ∧ t.version.toNat / 256 = 4 * v + 17) ∧
    (¬(1 ≤ v ∧ v ≤ 13) → exec .mtxBuild s = .next (failed s .badVersion))

/-- R181–R190: the matrix that the builder's ordered steps leave is the one the layout rules describe, in every cell of
the storage. -/
def Obligations.BuiltMatrixIsTheLayout : Prop :=
  ∀ v r c : Nat, 1 ≤ v → v ≤ 13 → (builtMatrix v).cell r c = layoutCell v r c

/-- R192: the numbers of reserved and of free cells of each version's symbol, and the 30 reserved cells of the format area
that are unset. -/
def Obligations.BuiltMatrixCellCounts : Prop :=
  ∀ v, 1 ≤ v → v ≤ 13 →
    countCells (fun r c => ((builtMatrix v).cell r c).rsv) =
      (if v = 1 then 233 else if v ≤ 6 then 266 + 8 * (v - 2) else 457 + 8 * (v - 7)) ∧
    countCells (fun r c => decide (r < symbolSize v ∧ c < symbolSize v) && !((builtMatrix v).cell r c).rsv) =
      8 * totalCodewords v + (if 2 ≤ v ∧ v ≤ 6 then 7 else 0) ∧
    countCells (fun r c => ((builtMatrix v).cell r c).rsv && !((builtMatrix v).cell r c).set) = 30

/-- R189: `vbits(v)` is `v` followed by twelve check bits that make it divisible by `0x1F25` over GF(2). -/
def Obligations.VersionBitsAreABchCodeword : Prop :=
  ∀ v < 64,
    (versionBits v).toNat / 4096 = v ∧
    (List.range 6).foldl
      (fun (acc : BitVec 18) k => if acc.getLsbD (17 - k) then acc ^^^ ((0x1F25 : BitVec 18) <<< (5 - k)) else acc)
      (versionBits v) = 0

/-! ### The placer -/

/-- R210: for a symbol of a legal version and any matrix, the walk lists exactly the unreserved cells of the symbol outside column 6,
each once, in the order of their visits: over a matrix without reserved cells each cell stands at its `visitPosition`, and over any
matrix the positions of the listed cells rise. -/
def Obligations.WalkListsEveryFreeCellOnce : Prop :=
  ∀ (m : Grid) (v : Nat), 1 ≤ v → v ≤ 13 →
    (walk m (symbolSize v)).Nodup ∧
    (∀ r c, (r, c) ∈ walk m (symbolSize v) ↔
      r < symbolSize v ∧ c < symbolSize v ∧ c ≠ 6 ∧ (m.cell r c).rsv = false) ∧
    (∀ r c, r < symbolSize v → c < symbolSize v → c ≠ 6 →
      (walk Grid.clear (symbolSize v))[visitPosition (symbolSize v) r c]? = some (r, c)) ∧
    (walk m (symbolSize v)).Pairwise fun p q =>
      visitPosition (symbolSize v) p.1 p.2 < visitPosition (symbolSize v) q.1 q.2

/-- R212–R214: with a matrix of a legal version, operands that pass the checks and a written input, `ZZ_PLACE` completes: cell
`k` of the walk gets stream bit `k`, most significant bit of each codeword first, or 0 after the last bit; every other
cell is as before, no `rsv` changes, and `PLACED` reports the cells and the bits. -/
def Obligations.ZzPlaceCompletes : Prop :=
  ∀ (s : State) (v src len : Nat) (d : List Byte),
    1 ≤ v → v ≤ 13 → s.version = versionWord v →
    src = s.latch.src.toNat % 1024 → len = s.latch.len.toNat % 2048 → src + len ≤ 1024 →
    d.length = len → (∀ k < len, s.cwb.read (src + k) = d[k]?) →
      ∃ t, exec .zzPlace s = .next t ∧ t = completed { s with mtx := t.mtx, placed := t.placed } ∧
        (∀ k r c, (walk s.mtx (symbolSize v))[k]? = some (r, c) →
          t.mtx.cell r c = ⟨if k < 8 * len then (d.getD (k / 8) 0).getLsbD (7 - k % 8) else false, true, false⟩) ∧
        (∀ r c, (r, c) ∉ walk s.mtx (symbolSize v) → t.mtx.cell r c = s.mtx.cell r c) ∧
        t.placed.toNat / 65536 = (walk s.mtx (symbolSize v)).length ∧
        t.placed.toNat % 65536 = min (8 * len) (walk s.mtx (symbolSize v)).length

/-- R212: "The reserved grid, once set by function-pattern placement, is never overwritten by data placement": in every state,
whatever `VERSION` holds, `ZZ_PLACE` changes no `rsv` and no reserved cell. -/
def Obligations.ZzPlaceKeepsReservedCells : Prop :=
  ∀ s t : State, exec .zzPlace s = .next t →
    ∀ r c, (t.mtx.cell r c).rsv = (s.mtx.cell r c).rsv ∧
      ((s.mtx.cell r c).rsv = true → t.mtx.cell r c = s.mtx.cell r c)

/-! ### Errors, acceptance and completion -/

/-- R233: each command reports the first failing check of its row, by `raise Error` with no other effect; a command whose
checks all pass ends with no error if it ends at all. That `exec` repeats the checks of
the acceptance is the model's choice (log entry 11), and that an error leaves `BUSY` 0 and nothing pending in every state is
the model's inference (log entry 13). -/
def Obligations.FirstFailingCheckIsReported : Prop :=
  ∀ (i : Instr) (s : State),
    (∀ e, firstFailingCheck i s.latch (s.version.toNat % 256) = some e → exec i s = .next (failed s e)) ∧
    (firstFailingCheck i s.latch (s.version.toNat % 256) = none →
      ∀ t, exec i s = .next t → t.status.errcode = none)

/-- R232, R267: the write of a word to `CMD`, with no completion before the next access. While `BUSY = 1` it is dropped and sets
`OVR`; else `DONE` and `ERRCODE` are cleared and the operands latched, and the command ends at once with the first error of
R233, or is pending. -/
def Obligations.CmdWriteIsAcceptedOrDropped : Prop :=
  ∀ (s : State) (w : Word) (ts : List Turn),
    s.script = .access (.write 0x000C .word w) false :: ts →
    (s.status.busy = true →
      step s = .next { s with status := { s.status with ovr := true }, script := ts, resp := none }) ∧
    (s.status.busy = false → s.pending = none →
      (decode w = .illegal →
        step s = .next (failed { s with latch := s.ops, script := ts, resp := none } .badCmd)) ∧
      (∀ i e, decode w = .command i → firstFailingCheck i s.ops (s.version.toNat % 256) = some e →
        step s = .next (failed { s with latch := s.ops, script := ts, resp := none } e)) ∧
      (∀ i, decode w = .command i → firstFailingCheck i s.ops (s.version.toNat % 256) = none →
        step s = .next
          { s with status := ⟨true, false, s.status.ovr, none⟩, latch := s.ops, pending := some i, script := ts,
                   resp := none }))

/-- R102, R232, R271: the step of a `CMD` write whose command completes before the next access runs the decoded command: it is
`exec` of it on the state with the operands latched and the command pending (log entries 1, 6,
11 and 13). -/
def Obligations.StepRunsTheDecodedCommand : Prop :=
  ∀ (s : State) (w : Word) (i : Instr) (ts : List Turn),
    s.script = .access (.write 0x000C .word w) true :: ts → s.status.busy = false → decode w = .command i →
      step s = exec i
        { s with status := ⟨true, false, s.status.ovr, none⟩, latch := s.ops, pending := some i, script := ts,
                 resp := none }

/-- R271: the completion step is enabled exactly when a command is pending. The engine's turn performs the pending command and
is idle otherwise, and so is the step in which the host has no access left; a turn that says so lets it follow an access.
The turns are the model's form of the schedule that R271 leaves the order to (log entry 1). -/
def Obligations.CompletionStepPerformsThePendingCommand : Prop :=
  (∀ (s : State) (ts : List Turn), s.script = .engine :: ts →
    (∀ i, s.pending = some i → step s = exec i { s with script := ts }) ∧
    (s.pending = none → step s = .next { s with script := ts })) ∧
  (∀ s : State, s.script = [] →
    (∀ i, s.pending = some i → step s = exec i s) ∧ (s.pending = none → step s = .next s)) ∧
  (∀ (s t : State) (a : Access) (ts : List Turn),
    s.script = .access a true :: ts → step { s with script := .access a false :: ts } = .next t →
      (∀ i, t.pending = some i → step s = exec i t) ∧ (t.pending = none → step s = .next t))

/-- R232, R237, R271: a command that completes leaves nothing pending, `BUSY = 0` and `DONE = 1`, with `OVR`, `CTRL.IE`, the operand
registers and the latches as they were, so that `IRQ` equals `IE`.
Of a command that ends in an error `exec` says the same: that it repeats the checks of the acceptance is the model's choice
(log entry 11), and that an error leaves `BUSY` 0 and nothing pending in every state is the model's inference (log entry 13). -/
def Obligations.CompletionSetsDone : Prop :=
  ∀ (i : Instr) (s t : State), exec i s = .next t →
    t.pending = none ∧ t.status.busy = false ∧ t.status.done = true ∧ t.status.ovr = s.status.ovr ∧
    t.ie = s.ie ∧ t.ops = s.ops ∧ t.latch = s.latch ∧ t.irq = s.ie

/-- R237: `IRQ` is asserted exactly while `CTRL.IE` and `STATUS.DONE`, bits 0 of `CTRL` and 1 of `STATUS` as software reads
them, are both 1. -/
def Obligations.IrqIsEnableAndDone : Prop :=
  ∀ s : State, s.irq = true ↔ (s.regValue .ctrl).getLsbD 0 = true ∧ (s.regValue .status).getLsbD 1 = true

/-- R86, R269: the number of host accesses between acceptance and completion does not matter. After any admitted accesses other
than a soft reset, the command is still pending, and its completion gives the same results as it would have given at once
(log entry 1). -/
def Obligations.LatencyDoesNotChangeTheResult : Prop :=
  ∀ (s : State) (i : Instr) (accesses : List Access) (ts : List Turn),
    s.status.busy = true → s.pending = some i →
    (∀ a ∈ accesses, a.wf = true ∧ a.softResets = false) →
      ∃ u, Sys2Proof.core.run accesses.length
          { s with script := accesses.map (fun a => Turn.access a false) ++ ts } = .next u ∧
        u.script = ts ∧ u.status.busy = true ∧ u.pending = some i ∧ sameCommandResult (exec i u) (exec i s)

/-! ### The host's accesses -/

/-- R78: an access other than an aligned word below `0x100` or a byte at or above it is a fault of the host program, and no
other access is a bus error. That the run stops there is the model's choice (log entry 10). -/
def Obligations.OnlyAdmittedAccessesComplete : Prop :=
  ∀ (s : State) (a : Access) (c : Bool) (ts : List Turn), s.script = .access a c :: ts →
    (step s = .fault (.busError a.addr) ↔
      ¬((a.size = .word ∧ a.addr.toNat < 0x100 ∧ a.addr.toNat % 4 = 0) ∨ (a.size = .byte ∧ 0x100 ≤ a.addr.toNat)))

/-- R83: "No read has a side effect": a read changes the response to the host and, where it draws a free value, the model's
count of draws (log entries 5 and 7). -/
def Obligations.ReadsHaveNoSideEffect : Prop :=
  ∀ (s t : State) (addr : Addr) (size : AccessSize) (ts : List Turn),
    s.script = .access (.read addr size) false :: ts → step s = .next t →
      t = { s with script := ts, resp := t.resp, draws := t.draws } ∧ t.resp.isSome = true

/-- R33–R39, R266: a read of a register. `ID`, `CTRL`, `STATUS`, `CMD` and the operand registers read exactly at all times; `RESULT`,
`VERSION` and `PLACED` do while `BUSY = 0`; the reserved offsets read 0. -/
def Obligations.RegisterReads : Prop :=
  ∀ (s : State) (off : Addr) (ts : List Turn), s.script = .access (.read off .word) false :: ts →
    let reads (w : Word) := step s = .next { s with script := ts, resp := some w }
    (off = 0x000 → reads 0x47460100) ∧
    (off = 0x004 → reads (if s.ie then 1 else 0)) ∧
    (off = 0x008 → reads s.status.word) ∧
    (off = 0x00C → reads 0) ∧
    (off = 0x010 → reads s.ops.opa) ∧
    (off = 0x014 → reads s.ops.opb) ∧
    (off = 0x018 → reads s.ops.src) ∧
    (off = 0x01C → reads s.ops.dst) ∧
    (off = 0x020 → reads s.ops.len) ∧
    (off = 0x024 → s.status.busy = false → reads s.result) ∧
    (off = 0x028 → s.status.busy = false → reads s.version) ∧
    (off = 0x02C → s.status.busy = false → reads s.placed) ∧
    (0x030 ≤ off.toNat → off.toNat ≤ 0x0FC → off.toNat % 4 = 0 → reads 0)

/-- R73–R77, R79: a byte read of a window of an idle block, and of the constant windows at any time; the reserved ranges read
0. An unwritten `CWB` byte has no value and faults, as R263 recommends to a model (log entry 2). -/
def Obligations.WindowReads : Prop :=
  ∀ (s : State) (addr : Addr) (ts : List Turn), s.script = .access (.read addr .byte) false :: ts →
    let a := addr.toNat
    let reads (b : Byte) := step s = .next { s with script := ts, resp := some (b.zeroExtend 32) }
    (∀ k ≤ 30, a = 0x0100 + k → s.status.busy = false → reads (genCoefficient s.gen k)) ∧
    (∀ v : Byte, a = 0x0200 + v.toNat → reads (BitVec.ofNat 8 (LOG v))) ∧
    (∀ k ≤ 1023, ∀ b, a = 0x0400 + k → s.status.busy = false → s.cwb.read k = some b → reads b) ∧
    (∀ k ≤ 1023, a = 0x0400 + k → s.status.busy = false → s.cwb.read k = none → step s = .fault (.unwrittenCwb k)) ∧
    (∀ i ≤ 511, a = 0x0800 + i → reads (EXP i)) ∧
    (∀ r ≤ 68, ∀ c ≤ 68, a = 0x1000 + 69 * r + c → s.status.busy = false →
      reads (BitVec.ofNat 8
        (4 * (s.mtx.cell r c).rsv.toNat + 2 * (s.mtx.cell r c).set.toNat + (s.mtx.cell r c).val.toNat))) ∧
    ((0x011F ≤ a ∧ a ≤ 0x01FF) ∨ (0x0300 ≤ a ∧ a ≤ 0x03FF) ∨ (0x0A00 ≤ a ∧ a ≤ 0x0FFF) ∨ 0x2299 ≤ a → reads 0)

/-- R266: while `BUSY = 1`, a read of `RESULT`, `VERSION`, `PLACED` or of the `GEN`, `CWB` or `MTX` window completes with a value
about which nothing is known, drawn afresh (log entry 3): the statement holds whatever values the free functions have. -/
def Obligations.BusyReadsAreFreeDraws : Prop :=
  ∀ (s : State) (addr : Addr) (ts : List Turn), s.status.busy = true →
    ((addr = 0x024 ∨ addr = 0x028 ∨ addr = 0x02C) → s.script = .access (.read addr .word) false :: ts →
      step s = .next { s with script := ts, resp := some (Config.freeWord s.draws), draws := s.draws + 1 }) ∧
    ((0x0100 ≤ addr.toNat ∧ addr.toNat ≤ 0x011E) ∨ (0x0400 ≤ addr.toNat ∧ addr.toNat ≤ 0x07FF) ∨
        (0x1000 ≤ addr.toNat ∧ addr.toNat ≤ 0x2298) →
      s.script = .access (.read addr .byte) false :: ts →
      step s = .next
        { s with script := ts, resp := some ((Config.freeByte s.draws).zeroExtend 32), draws := s.draws + 1 })

/-- R38, R269: a write to an operand register stores its implemented bits and drops the others, also while a command runs, and
changes neither the latches nor anything else. -/
def Obligations.OperandWritesKeepTheImplementedBits : Prop :=
  ∀ (s : State) (off : Addr) (w : Word) (ts : List Turn), s.script = .access (.write off .word w) false :: ts →
    let stores (o : Operands) := step s = .next { s with script := ts, resp := none, ops := o }
    (off = 0x010 → stores { s.ops with opa := BitVec.ofNat 32 (w.toNat % 2 ^ 8) }) ∧
    (off = 0x014 → stores { s.ops with opb := BitVec.ofNat 32 (w.toNat % 2 ^ 8) }) ∧
    (off = 0x018 → stores { s.ops with src := BitVec.ofNat 32 (w.toNat % 2 ^ 10) }) ∧
    (off = 0x01C → stores { s.ops with dst := BitVec.ofNat 32 (w.toNat % 2 ^ 10) }) ∧
    (off = 0x020 → stores { s.ops with len := BitVec.ofNat 32 (w.toNat % 2 ^ 11) })

/-- R36: `STATUS` reads as its five fields in their bits, `ERR` as `ERRCODE != 0` and the reserved bits as 0; a write clears `DONE`
and `OVR` where it has a 1 and changes nothing else. -/
def Obligations.StatusReadsAndAcknowledges : Prop :=
  (∀ st : Status,
    st.word.toNat =
      256 * st.errField.toNat + 8 * st.ovr.toNat + 4 * (decide (st.errField.toNat ≠ 0)).toNat + 2 * st.done.toNat +
        st.busy.toNat) ∧
  ∀ (s : State) (w : Word) (ts : List Turn), s.script = .access (.write 0x0008 .word w) false :: ts →
    step s = .next
      { s with
        script := ts
        resp := none
        status := ⟨s.status.busy, s.status.done && !w.getLsbD 1, s.status.ovr && !w.getLsbD 3, s.status.errcode⟩ }

/-- R231: the numbers of the error codes; 6–15 are never produced. -/
def Obligations.ErrorCodesAreNumbered : Prop :=
  ∀ st : Status,
    (st.errcode = none → st.errField = 0) ∧
    (st.errcode = some .badCmd → st.errField = 1) ∧
    (st.errcode = some .badVersion → st.errField = 2) ∧
    (st.errcode = some .badDegree → st.errField = 3) ∧
    (st.errcode = some .badRange → st.errField = 4) ∧
    (st.errcode = some .noMatrix → st.errField = 5) ∧
    st.errField.toNat < 6

/-- R75, R268: a byte write of the `CWB` window sets that byte, keeps every other byte and changes nothing else; while
`BUSY = 1` it is dropped and sets `OVR`. -/
def Obligations.CwbWrites : Prop :=
  ∀ (s : State) (addr : Addr) (k : Nat) (w : Word) (ts : List Turn),
    s.script = .access (.write addr .byte w) false :: ts → addr.toNat = 0x0400 + k → k ≤ 1023 →
    (s.status.busy = false →
      ∃ t, step s = .next t ∧ t = { s with script := ts, resp := none, cwb := t.cwb } ∧
        t.cwb.read k = some (w.extractLsb' 0 8) ∧ ∀ x, x ≠ k → t.cwb.read x = s.cwb.read x) ∧
    (s.status.busy = true →
      step s = .next { s with script := ts, resp := none, status := { s.status with ovr := true } })

/-- R79, R80: a write to a read-only register or window, or to a reserved offset or range, is admitted and ignored. -/
def Obligations.ReadOnlyAndReservedWritesAreIgnored : Prop :=
  ∀ (s : State) (addr : Addr) (w : Word) (ts : List Turn),
    ((addr = 0x000 ∨ addr = 0x024 ∨ addr = 0x028 ∨ addr = 0x02C ∨
        (0x030 ≤ addr.toNat ∧ addr.toNat ≤ 0x0FC ∧ addr.toNat % 4 = 0)) →
      s.script = .access (.write addr .word w) false :: ts →
      step s = .next { s with script := ts, resp := none }) ∧
    ((0x0100 ≤ addr.toNat ∧ addr.toNat ≤ 0x03FF) ∨ 0x0800 ≤ addr.toNat →
      s.script = .access (.write addr .byte w) false :: ts →
      step s = .next { s with script := ts, resp := none })

/-! ### Reset -/

/-- R260: what power-on reset leaves, as software reads it. The `CWB` contents are unspecified; the model holds no written byte
(log entry 2). The model's own fields hold nothing (log entries 1, 5 and 7). -/
def Obligations.ResetState : Prop :=
  let s := State.reset
  s.regValue .id = 0x47460100 ∧ s.regValue .ctrl = 0 ∧ s.regValue .status = 0 ∧ s.regValue .cmd = 0 ∧
  s.regValue .opa = 0 ∧ s.regValue .opb = 0 ∧ s.regValue .src = 0 ∧ s.regValue .dst = 0 ∧ s.regValue .len = 0 ∧
  s.regValue .result = 0 ∧ s.regValue .version = 0 ∧ s.regValue .placed = 0 ∧
  s.pending = none ∧ s.latch = ⟨0, 0, 0, 0, 0⟩ ∧ (∀ k ≤ 30, genCoefficient s.gen k = 0) ∧
  (∀ r c, s.mtx.cell r c = ⟨false, false, false⟩) ∧ s.irq = false ∧ ∀ a, s.cwb.read a = none

/-- R35, R261, R262: a write to `CTRL` with bit 1 set gives the reset state in everything but `CWB`, whatever bit 0 is, and a write
with bit 1 clear sets `IE` and nothing else. The `CWB` bytes outside the output region of a cancelled `RS_ENCODE` or `ILV` keep
their values; those inside it are written, each with a free value of its own, drawn in rising order of offsets, and the count
of draws advances by their number (log entry 4). -/
def Obligations.CtrlWriteResetsOrSetsIe : Prop :=
  ∀ (s : State) (w : Word) (ts : List Turn), s.script = .access (.write 0x0004 .word w) false :: ts →
    (w.getLsbD 1 = false → step s = .next { s with script := ts, resp := none, ie := w.getLsbD 0 }) ∧
    (w.getLsbD 1 = true →
      let dst := s.latch.dst.toNat % 1024
      let n := s.latch.opa.toNat % 256
      let count := if s.pending = some .rsEncode then n
        else if s.pending = some .ilv then totalCodewords n else 0
      ∃ t, step s = .next t ∧ t = { State.reset with script := ts, cwb := t.cwb, draws := s.draws + count } ∧
        (∀ a, a < dst ∨ dst + count ≤ a → t.cwb.read a = s.cwb.read a) ∧
        (∀ a, dst ≤ a → a < dst + count → a < 1024 →
          t.cwb.read a = some (Config.freeByte (s.draws + (a - dst)))))

/-! ### Invariants and whole-machine rules -/

/-- The invariant of the block holds after reset. -/
def Obligations.InvariantHoldsAtReset : Prop := State.reset.Inv

/-- Every step keeps the invariant of the block: reserved register bits 0, `BUSY` with a pending command that passed its
checks, a legal `VERSION`, unset cells white, the built patterns intact, the cells outside the symbol clear, and the
buffer in its canonical form. -/
def Obligations.StepKeepsTheInvariant : Prop :=
  ∀ s t : State, s.Inv → step s = .next t → t.Inv

/-- R47: `pending ≠ none` exactly when `STATUS.BUSY = 1`, kept by every step. -/
def Obligations.StepKeepsBusyMatchesPending : Prop :=
  ∀ s t : State, (s.status.busy = true ↔ s.pending ≠ none) → step s = .next t →
    (t.status.busy = true ↔ t.pending ≠ none)

/-- R40: the invariant `set = 0 ⇒ val = 0` of the matrix, kept by every step from any state that has it. -/
def Obligations.StepKeepsUnsetCellsWhite : Prop :=
  ∀ s t : State, s.UnsetCellsWhite → step s = .next t → t.UnsetCellsWhite

/-- R33, R38, R39: the bits that no rule names read 0, kept by every step. -/
def Obligations.StepKeepsReservedBitsZero : Prop :=
  ∀ s t : State, s.ReservedBitsZero → step s = .next t → t.ReservedBitsZero

/-- Every step keeps the buffer's canonical form, from any state that has it. -/
def Obligations.StepKeepsTheBufferCanonical : Prop :=
  ∀ s t : State, s.cwb.wf → step s = .next t → t.cwb.wf

/-- R49, R212: every step keeps `VERSION` legal and the reserved grid that of `VERSION`: the reserved cells are those that `MTX_BUILD`
placed for the version in `VERSION`, each as it left them. -/
def Obligations.StepKeepsThePatternsIntact : Prop :=
  ∀ s t : State, s.VersionLegal → s.PatternsIntact → step s = .next t → t.VersionLegal ∧ t.PatternsIntact

/-- R236: no error is raised after a command's acceptance: in a state with the invariant, the completion of the pending command
records no error. -/
def Obligations.NoErrorAfterAcceptance : Prop :=
  ∀ (s t : State) (i : Instr) (ts : List Turn), s.Inv → s.pending = some i → s.script = .engine :: ts →
    step s = .next t → t.status.errcode = none ∧ t.status.done = true ∧ t.status.busy = false

/-- R78, R236, R263: the machine stops only for an access that the block does not admit, or because the host or a command
reads a `CWB` byte that nothing has written; it refuses nothing. Both stops are the model's (log entries 2 and 10). -/
def Obligations.StopsOnlyForTheHostsFaults : Prop :=
  ∀ s : State,
    (∀ r, step s ≠ .refused r) ∧
    (∀ b, step s = .fault (.busError b) →
      ∃ a c ts, s.script = .access a c :: ts ∧ a.wf = false ∧ a.addr = b) ∧
    (∀ a, step s = .fault (.unwrittenCwb a) → a < 1024 ∧ s.cwb.read a = none)

/-- R263: a command that reads an unwritten `CWB` byte faults at the first such offset of its input, as the spec recommends to a
model (log entry 2). -/
def Obligations.UnwrittenInputFaults : Prop :=
  ∀ (s : State) (i : Instr) (src count a : Nat),
    src = s.latch.src.toNat % 1024 → firstFailingCheck i s.latch (s.version.toNat % 256) = none →
    ((i = .rsEncode ∨ i = .zzPlace) ∧ count = s.latch.len.toNat % 2048 ∨
      i = .ilv ∧ count = dataCodewords (s.latch.opa.toNat % 256)) →
    src ≤ a → a < src + count → s.cwb.read a = none → (∀ x, src ≤ x → x < a → s.cwb.read x ≠ none) →
      exec i s = .fault (.unwrittenCwb a)

/-- R39, R49, R212: `VERSION`, every `rsv` and every reserved cell change only where an `MTX_BUILD` completes without error or the host
makes a soft reset. -/
def Obligations.OnlyABuildOrAResetChangesThePatterns : Prop :=
  ∀ s t : State, step s = .next t → ¬softResetsNext s → ¬(buildsNext s ∧ t.status.errcode = none) →
    t.version = s.version ∧
    ∀ r c, (t.mtx.cell r c).rsv = (s.mtx.cell r c).rsv ∧
      ((s.mtx.cell r c).rsv = true → t.mtx.cell r c = s.mtx.cell r c)

/-- R215: over the built matrix the codewords of the same version fill the walk, but for 7 cells in versions 2 to 6, which are its last
ones, in this order. R212's example: the first bits of version 1 go to `(20, 20)`, `(20, 19)`, `(19, 20)` and `(19, 19)`. -/
def Obligations.RemainderCellsAreTheLastOnes : Prop :=
  (∀ v, 1 ≤ v → v ≤ 13 →
    let s := symbolSize v
    (walk (builtMatrix v) s).drop (8 * totalCodewords v) =
      (if 2 ≤ v ∧ v ≤ 6 then
        [(s - 12, 0), (s - 11, 1), (s - 11, 0), (s - 10, 1), (s - 10, 0), (s - 9, 1), (s - 9, 0)]
      else []) ∧
    8 * totalCodewords v ≤ (walk (builtMatrix v) s).length) ∧
  (walk (builtMatrix 1) 21).take 4 = [(20, 20), (20, 19), (19, 20), (19, 19)]
end

