-- ==== Sys2Proof/Laws/Memory.lean ====
section
/-! SUPPORT. The laws of the codeword buffer: a read after a write, and the canonical form, which every operation keeps. -/

namespace Sys2Proof.Machine

/-- An insertion is seen at its own offset and nowhere else. -/
theorem Memory.read_insert (m : Memory) (a x : Nat) (v : Byte) :
    (m.insert a v).read x = if x = a then some v else m.read x := by
  induction m with
  | nil => simp only [Memory.insert, Memory.read]; split <;> simp_all [eq_comm]
  | cons p m ih =>
    obtain ⟨k, b⟩ := p
    simp only [Memory.insert]
    split
    · simp only [Memory.read]; split <;> simp_all [eq_comm]
    · split
      · simp only [Memory.read]; split <;> simp_all [eq_comm]
      · simp only [Memory.read, ih]
        by_cases h : k = x
        · rw [if_pos h, if_pos h, if_neg (by omega)]
        · rw [if_neg h, if_neg h]

/-- A write inside the buffer is seen at its own offset and nowhere else. -/
theorem Memory.read_write (m : Memory) {a : Nat} (x : Nat) (v : Byte) (h : a < Config.cwbBytes) :
    (m.write a v).read x = if x = a then some v else m.read x := by
  simp [Memory.write, h, Memory.read_insert]

/-- A write leaves every other offset alone, wherever it goes. -/
theorem Memory.read_write_other (m : Memory) {a x : Nat} (v : Byte) (h : x ≠ a) :
    (m.write a v).read x = m.read x := by
  simp only [Memory.write]; split
  · simp [Memory.read_insert, h]
  · rfl

/-- What a list of writes inside the buffer leaves at every offset. -/
theorem Memory.read_writeAll (vs : List Byte) (m : Memory) (a x : Nat) (h : a + vs.length ≤ Config.cwbBytes) :
    (m.writeAll a vs).read x = if a ≤ x ∧ x < a + vs.length then vs[x - a]? else m.read x := by
  induction vs generalizing m a with
  | nil => simp only [Memory.writeAll, List.length_nil]; split <;> [omega; rfl]
  | cons v vs ih =>
    rw [List.length_cons] at h
    rw [Memory.writeAll, ih _ _ (by omega), Memory.read_write _ _ _ (by omega), List.length_cons]
    by_cases h1 : x = a
    · subst h1; simp
    · by_cases h2 : a + 1 ≤ x ∧ x < a + 1 + vs.length
      · have h3 : x - a = (x - (a + 1)) + 1 := by omega
        rw [if_pos h2, if_pos (by omega), h3, List.getElem?_cons_succ]
      · rw [if_neg h2, if_neg h1, if_neg (by omega)]

/-- A list of writes leaves every offset outside its region alone. -/
theorem Memory.read_writeAll_outside (vs : List Byte) (m : Memory) (a x : Nat) (h : x < a ∨ a + vs.length ≤ x) :
    (m.writeAll a vs).read x = m.read x := by
  induction vs generalizing m a with
  | nil => rfl
  | cons v vs ih =>
    rw [List.length_cons] at h
    rw [Memory.writeAll, ih _ _ (by omega), Memory.read_write_other _ _ (by omega)]

theorem Memory.mem_insert {m : Memory} {a : Nat} {v : Byte} {x : Host.Cell} (h : x ∈ m.insert a v) :
    x = (a, v) ∨ x ∈ m := by
  induction m with
  | nil => simpa [Memory.insert] using h
  | cons p m ih =>
    obtain ⟨k, b⟩ := p
    simp only [Memory.insert] at h
    split at h
    · simpa using h
    · split at h
      · rcases List.mem_cons.1 h with h | h
        · exact .inl h
        · exact .inr (List.mem_cons_of_mem _ h)
      · rcases List.mem_cons.1 h with h | h
        · exact .inr (h ▸ List.mem_cons_self)
        · exact (ih h).imp id (List.mem_cons_of_mem _)

theorem Memory.pairwise_insert {m : Memory} (a : Nat) (v : Byte) (h : m.Pairwise fun x y => x.1 < y.1) :
    (m.insert a v).Pairwise fun x y => x.1 < y.1 := by
  induction m with
  | nil => simp [Memory.insert]
  | cons p m ih =>
    obtain ⟨k, b⟩ := p
    obtain ⟨hk, hm⟩ := List.pairwise_cons.1 h
    simp only [Memory.insert]
    split
    · refine List.pairwise_cons.2 ⟨fun x hx => ?_, h⟩
      rcases List.mem_cons.1 hx with rfl | hx
      · assumption
      · exact Nat.lt_trans ‹_› (hk x hx)
    · split
      · subst_vars; exact List.pairwise_cons.2 ⟨hk, hm⟩
      · refine List.pairwise_cons.2 ⟨fun x hx => ?_, ih hm⟩
        rcases Memory.mem_insert hx with rfl | hx
        · show k < a; omega
        · exact hk x hx

/-- A write keeps the canonical form. -/
theorem Memory.wf_write {m : Memory} (a : Nat) (v : Byte) (h : m.wf) : (m.write a v).wf := by
  simp only [Memory.write]; split
  · refine ⟨Memory.pairwise_insert a v h.1, fun x hx => ?_⟩
    rcases Memory.mem_insert hx with rfl | hx
    · assumption
    · exact h.2 x hx
  · exact h

/-- A list of writes keeps the canonical form. -/
theorem Memory.wf_writeAll (vs : List Byte) {m : Memory} (a : Nat) (h : m.wf) : (m.writeAll a vs).wf := by
  induction vs generalizing m a with
  | nil => exact h
  | cons v vs ih => exact ih _ (Memory.wf_write a v h)

/-- The buffer after reset, with nothing written, has the canonical form. -/
theorem reset_cwb_wf : State.reset.cwb.wf := by decide

/-- A snapshot gives the bytes of its region exactly where each of them is written. -/
theorem Memory.snapshot_ok (m : Memory) (n a : Nat) (bs : List Byte) :
    m.snapshot a n = .ok bs ↔ bs.length = n ∧ ∀ k < n, m.read (a + k) = bs[k]? := by
  induction n generalizing a bs with
  | zero => cases bs <;> simp [Memory.snapshot]
  | succ n ih =>
    have key : ∀ (b : Byte) (cs : List Byte),
        (cs.length = n ∧ ∀ k < n, m.read (a + 1 + k) = cs[k]?) ∧ m.read a = some b ↔
          (b :: cs).length = n + 1 ∧ ∀ k < n + 1, m.read (a + k) = (b :: cs)[k]? := by
      intro b cs
      rw [Nat.forall_lt_succ_left]
      simp only [List.length_cons, Nat.add_right_cancel_iff, Nat.add_zero, List.getElem?_cons_zero,
        List.getElem?_cons_succ, Nat.add_assoc, Nat.add_comm 1]
      tauto
    cases hr : m.read a with
    | none =>
      simp only [Memory.snapshot, hr, reduceCtorEq, false_iff]
      rintro ⟨hl, hk⟩
      have h0 := hk 0 (by omega)
      rw [Nat.add_zero, hr, eq_comm, List.getElem?_eq_none_iff] at h0
      omega
    | some b =>
      cases hs : m.snapshot (a + 1) n with
      | error e =>
        simp only [Memory.snapshot, hr, hs, reduceCtorEq, false_iff]
        intro h
        cases bs with
        | nil => simp at h
        | cons c cs =>
          have := (ih (a + 1) cs).2 ((key c cs).2 h).1
          rw [hs] at this; cases this
      | ok cs =>
        simp only [Memory.snapshot, hr, hs, Except.ok.injEq]
        constructor
        · rintro rfl
          exact (key b cs).1 ⟨(ih (a + 1) cs).1 hs, hr⟩
        · intro h
          cases bs with
          | nil => simp at h
          | cons c ds =>
            obtain ⟨h1, h2⟩ := (key c ds).2 h
            have := (ih (a + 1) ds).2 h1
            rw [hs, Except.ok.injEq] at this
            rw [hr, Option.some.injEq] at h2
            rw [this, h2]

/-- Where a snapshot stops, it names the first offset of its region that nothing has written. -/
theorem Memory.snapshot_error (m : Memory) (n a e : Nat) (h : m.snapshot a n = .error e) :
    a ≤ e ∧ e < a + n ∧ m.read e = none ∧ ∀ x, a ≤ x → x < e → m.read x ≠ none := by
  induction n generalizing a with
  | zero => simp [Memory.snapshot] at h
  | succ n ih =>
    cases hr : m.read a with
    | none =>
      simp only [Memory.snapshot, hr, Except.error.injEq] at h
      subst h
      exact ⟨le_refl _, by omega, hr, fun x h1 h2 => by omega⟩
    | some b =>
      cases hs : m.snapshot (a + 1) n with
      | ok cs => simp [Memory.snapshot, hr, hs] at h
      | error e' =>
        simp only [Memory.snapshot, hr, hs, Except.error.injEq] at h
        subst h
        obtain ⟨h1, h2, h3, h4⟩ := ih (a + 1) hs
        refine ⟨by omega, by omega, h3, fun x hx1 hx2 => ?_⟩
        rcases Nat.eq_or_lt_of_le hx1 with rfl | hx
        · simp [hr]
        · exact h4 x hx hx2

end Sys2Proof.Machine
end

