-- ==== Sys2Proof/Laws/State.lean ====
section
/-! SUPPORT. One lemma for each field under each update of the state: no later proof unfolds a record update. -/

namespace Sys2Proof.Machine

/-! `setGen` -/

@[simp] theorem State.setGen_ie (s : State) (g : List Byte) : (s.setGen g).ie = s.ie := rfl
@[simp] theorem State.setGen_status (s : State) (g : List Byte) : (s.setGen g).status = s.status := rfl
@[simp] theorem State.setGen_ops (s : State) (g : List Byte) : (s.setGen g).ops = s.ops := rfl
@[simp] theorem State.setGen_result (s : State) (g : List Byte) : (s.setGen g).result = s.result := rfl
@[simp] theorem State.setGen_version (s : State) (g : List Byte) : (s.setGen g).version = s.version := rfl
@[simp] theorem State.setGen_placed (s : State) (g : List Byte) : (s.setGen g).placed = s.placed := rfl
@[simp] theorem State.setGen_mtx (s : State) (g : List Byte) : (s.setGen g).mtx = s.mtx := rfl
@[simp] theorem State.setGen_gen (s : State) (g : List Byte) : (s.setGen g).gen = genFile g := rfl
@[simp] theorem State.setGen_cwb (s : State) (g : List Byte) : (s.setGen g).cwb = s.cwb := rfl
@[simp] theorem State.setGen_pending (s : State) (g : List Byte) : (s.setGen g).pending = s.pending := rfl
@[simp] theorem State.setGen_latch (s : State) (g : List Byte) : (s.setGen g).latch = s.latch := rfl
@[simp] theorem State.setGen_resp (s : State) (g : List Byte) : (s.setGen g).resp = s.resp := rfl
@[simp] theorem State.setGen_script (s : State) (g : List Byte) : (s.setGen g).script = s.script := rfl
@[simp] theorem State.setGen_draws (s : State) (g : List Byte) : (s.setGen g).draws = s.draws := rfl

/-! `setCwb` -/

@[simp] theorem State.setCwb_ie (s : State) (m : Memory) : (s.setCwb m).ie = s.ie := rfl
@[simp] theorem State.setCwb_status (s : State) (m : Memory) : (s.setCwb m).status = s.status := rfl
@[simp] theorem State.setCwb_ops (s : State) (m : Memory) : (s.setCwb m).ops = s.ops := rfl
@[simp] theorem State.setCwb_result (s : State) (m : Memory) : (s.setCwb m).result = s.result := rfl
@[simp] theorem State.setCwb_version (s : State) (m : Memory) : (s.setCwb m).version = s.version := rfl
@[simp] theorem State.setCwb_placed (s : State) (m : Memory) : (s.setCwb m).placed = s.placed := rfl
@[simp] theorem State.setCwb_mtx (s : State) (m : Memory) : (s.setCwb m).mtx = s.mtx := rfl
@[simp] theorem State.setCwb_gen (s : State) (m : Memory) : (s.setCwb m).gen = s.gen := rfl
@[simp] theorem State.setCwb_cwb (s : State) (m : Memory) : (s.setCwb m).cwb = m := rfl
@[simp] theorem State.setCwb_pending (s : State) (m : Memory) : (s.setCwb m).pending = s.pending := rfl
@[simp] theorem State.setCwb_latch (s : State) (m : Memory) : (s.setCwb m).latch = s.latch := rfl
@[simp] theorem State.setCwb_resp (s : State) (m : Memory) : (s.setCwb m).resp = s.resp := rfl
@[simp] theorem State.setCwb_script (s : State) (m : Memory) : (s.setCwb m).script = s.script := rfl
@[simp] theorem State.setCwb_draws (s : State) (m : Memory) : (s.setCwb m).draws = s.draws := rfl

/-! `setMtx` -/

@[simp] theorem State.setMtx_ie (s : State) (m : Grid) : (s.setMtx m).ie = s.ie := rfl
@[simp] theorem State.setMtx_status (s : State) (m : Grid) : (s.setMtx m).status = s.status := rfl
@[simp] theorem State.setMtx_ops (s : State) (m : Grid) : (s.setMtx m).ops = s.ops := rfl
@[simp] theorem State.setMtx_result (s : State) (m : Grid) : (s.setMtx m).result = s.result := rfl
@[simp] theorem State.setMtx_version (s : State) (m : Grid) : (s.setMtx m).version = s.version := rfl
@[simp] theorem State.setMtx_placed (s : State) (m : Grid) : (s.setMtx m).placed = s.placed := rfl
@[simp] theorem State.setMtx_mtx (s : State) (m : Grid) : (s.setMtx m).mtx = m := rfl
@[simp] theorem State.setMtx_gen (s : State) (m : Grid) : (s.setMtx m).gen = s.gen := rfl
@[simp] theorem State.setMtx_cwb (s : State) (m : Grid) : (s.setMtx m).cwb = s.cwb := rfl
@[simp] theorem State.setMtx_pending (s : State) (m : Grid) : (s.setMtx m).pending = s.pending := rfl
@[simp] theorem State.setMtx_latch (s : State) (m : Grid) : (s.setMtx m).latch = s.latch := rfl
@[simp] theorem State.setMtx_resp (s : State) (m : Grid) : (s.setMtx m).resp = s.resp := rfl
@[simp] theorem State.setMtx_script (s : State) (m : Grid) : (s.setMtx m).script = s.script := rfl
@[simp] theorem State.setMtx_draws (s : State) (m : Grid) : (s.setMtx m).draws = s.draws := rfl

/-! `setResult` -/

@[simp] theorem State.setResult_ie (s : State) (w : Word) : (s.setResult w).ie = s.ie := rfl
@[simp] theorem State.setResult_status (s : State) (w : Word) : (s.setResult w).status = s.status := rfl
@[simp] theorem State.setResult_ops (s : State) (w : Word) : (s.setResult w).ops = s.ops := rfl
@[simp] theorem State.setResult_result (s : State) (w : Word) : (s.setResult w).result = w := rfl
@[simp] theorem State.setResult_version (s : State) (w : Word) : (s.setResult w).version = s.version := rfl
@[simp] theorem State.setResult_placed (s : State) (w : Word) : (s.setResult w).placed = s.placed := rfl
@[simp] theorem State.setResult_mtx (s : State) (w : Word) : (s.setResult w).mtx = s.mtx := rfl
@[simp] theorem State.setResult_gen (s : State) (w : Word) : (s.setResult w).gen = s.gen := rfl
@[simp] theorem State.setResult_cwb (s : State) (w : Word) : (s.setResult w).cwb = s.cwb := rfl
@[simp] theorem State.setResult_pending (s : State) (w : Word) : (s.setResult w).pending = s.pending := rfl
@[simp] theorem State.setResult_latch (s : State) (w : Word) : (s.setResult w).latch = s.latch := rfl
@[simp] theorem State.setResult_resp (s : State) (w : Word) : (s.setResult w).resp = s.resp := rfl
@[simp] theorem State.setResult_script (s : State) (w : Word) : (s.setResult w).script = s.script := rfl
@[simp] theorem State.setResult_draws (s : State) (w : Word) : (s.setResult w).draws = s.draws := rfl

/-! `setVersion` -/

@[simp] theorem State.setVersion_ie (s : State) (w : Word) : (s.setVersion w).ie = s.ie := rfl
@[simp] theorem State.setVersion_status (s : State) (w : Word) : (s.setVersion w).status = s.status := rfl
@[simp] theorem State.setVersion_ops (s : State) (w : Word) : (s.setVersion w).ops = s.ops := rfl
@[simp] theorem State.setVersion_result (s : State) (w : Word) : (s.setVersion w).result = s.result := rfl
@[simp] theorem State.setVersion_version (s : State) (w : Word) : (s.setVersion w).version = w := rfl
@[simp] theorem State.setVersion_placed (s : State) (w : Word) : (s.setVersion w).placed = s.placed := rfl
@[simp] theorem State.setVersion_mtx (s : State) (w : Word) : (s.setVersion w).mtx = s.mtx := rfl
@[simp] theorem State.setVersion_gen (s : State) (w : Word) : (s.setVersion w).gen = s.gen := rfl
@[simp] theorem State.setVersion_cwb (s : State) (w : Word) : (s.setVersion w).cwb = s.cwb := rfl
@[simp] theorem State.setVersion_pending (s : State) (w : Word) : (s.setVersion w).pending = s.pending := rfl
@[simp] theorem State.setVersion_latch (s : State) (w : Word) : (s.setVersion w).latch = s.latch := rfl
@[simp] theorem State.setVersion_resp (s : State) (w : Word) : (s.setVersion w).resp = s.resp := rfl
@[simp] theorem State.setVersion_script (s : State) (w : Word) : (s.setVersion w).script = s.script := rfl
@[simp] theorem State.setVersion_draws (s : State) (w : Word) : (s.setVersion w).draws = s.draws := rfl

/-! `setPlaced` -/

@[simp] theorem State.setPlaced_ie (s : State) (w : Word) : (s.setPlaced w).ie = s.ie := rfl
@[simp] theorem State.setPlaced_status (s : State) (w : Word) : (s.setPlaced w).status = s.status := rfl
@[simp] theorem State.setPlaced_ops (s : State) (w : Word) : (s.setPlaced w).ops = s.ops := rfl
@[simp] theorem State.setPlaced_result (s : State) (w : Word) : (s.setPlaced w).result = s.result := rfl
@[simp] theorem State.setPlaced_version (s : State) (w : Word) : (s.setPlaced w).version = s.version := rfl
@[simp] theorem State.setPlaced_placed (s : State) (w : Word) : (s.setPlaced w).placed = w := rfl
@[simp] theorem State.setPlaced_mtx (s : State) (w : Word) : (s.setPlaced w).mtx = s.mtx := rfl
@[simp] theorem State.setPlaced_gen (s : State) (w : Word) : (s.setPlaced w).gen = s.gen := rfl
@[simp] theorem State.setPlaced_cwb (s : State) (w : Word) : (s.setPlaced w).cwb = s.cwb := rfl
@[simp] theorem State.setPlaced_pending (s : State) (w : Word) : (s.setPlaced w).pending = s.pending := rfl
@[simp] theorem State.setPlaced_latch (s : State) (w : Word) : (s.setPlaced w).latch = s.latch := rfl
@[simp] theorem State.setPlaced_resp (s : State) (w : Word) : (s.setPlaced w).resp = s.resp := rfl
@[simp] theorem State.setPlaced_script (s : State) (w : Word) : (s.setPlaced w).script = s.script := rfl
@[simp] theorem State.setPlaced_draws (s : State) (w : Word) : (s.setPlaced w).draws = s.draws := rfl

/-! `setIe` -/

@[simp] theorem State.setIe_ie (s : State) (b : Bool) : (s.setIe b).ie = b := rfl
@[simp] theorem State.setIe_status (s : State) (b : Bool) : (s.setIe b).status = s.status := rfl
@[simp] theorem State.setIe_ops (s : State) (b : Bool) : (s.setIe b).ops = s.ops := rfl
@[simp] theorem State.setIe_result (s : State) (b : Bool) : (s.setIe b).result = s.result := rfl
@[simp] theorem State.setIe_version (s : State) (b : Bool) : (s.setIe b).version = s.version := rfl
@[simp] theorem State.setIe_placed (s : State) (b : Bool) : (s.setIe b).placed = s.placed := rfl
@[simp] theorem State.setIe_mtx (s : State) (b : Bool) : (s.setIe b).mtx = s.mtx := rfl
@[simp] theorem State.setIe_gen (s : State) (b : Bool) : (s.setIe b).gen = s.gen := rfl
@[simp] theorem State.setIe_cwb (s : State) (b : Bool) : (s.setIe b).cwb = s.cwb := rfl
@[simp] theorem State.setIe_pending (s : State) (b : Bool) : (s.setIe b).pending = s.pending := rfl
@[simp] theorem State.setIe_latch (s : State) (b : Bool) : (s.setIe b).latch = s.latch := rfl
@[simp] theorem State.setIe_resp (s : State) (b : Bool) : (s.setIe b).resp = s.resp := rfl
@[simp] theorem State.setIe_script (s : State) (b : Bool) : (s.setIe b).script = s.script := rfl
@[simp] theorem State.setIe_draws (s : State) (b : Bool) : (s.setIe b).draws = s.draws := rfl

/-! `setOps` -/

@[simp] theorem State.setOps_ie (s : State) (o : Operands) : (s.setOps o).ie = s.ie := rfl
@[simp] theorem State.setOps_status (s : State) (o : Operands) : (s.setOps o).status = s.status := rfl
@[simp] theorem State.setOps_ops (s : State) (o : Operands) : (s.setOps o).ops = o := rfl
@[simp] theorem State.setOps_result (s : State) (o : Operands) : (s.setOps o).result = s.result := rfl
@[simp] theorem State.setOps_version (s : State) (o : Operands) : (s.setOps o).version = s.version := rfl
@[simp] theorem State.setOps_placed (s : State) (o : Operands) : (s.setOps o).placed = s.placed := rfl
@[simp] theorem State.setOps_mtx (s : State) (o : Operands) : (s.setOps o).mtx = s.mtx := rfl
@[simp] theorem State.setOps_gen (s : State) (o : Operands) : (s.setOps o).gen = s.gen := rfl
@[simp] theorem State.setOps_cwb (s : State) (o : Operands) : (s.setOps o).cwb = s.cwb := rfl
@[simp] theorem State.setOps_pending (s : State) (o : Operands) : (s.setOps o).pending = s.pending := rfl
@[simp] theorem State.setOps_latch (s : State) (o : Operands) : (s.setOps o).latch = s.latch := rfl
@[simp] theorem State.setOps_resp (s : State) (o : Operands) : (s.setOps o).resp = s.resp := rfl
@[simp] theorem State.setOps_script (s : State) (o : Operands) : (s.setOps o).script = s.script := rfl
@[simp] theorem State.setOps_draws (s : State) (o : Operands) : (s.setOps o).draws = s.draws := rfl

/-! `setScript` -/

@[simp] theorem State.setScript_ie (s : State) (ts : List Turn) : (s.setScript ts).ie = s.ie := rfl
@[simp] theorem State.setScript_status (s : State) (ts : List Turn) : (s.setScript ts).status = s.status := rfl
@[simp] theorem State.setScript_ops (s : State) (ts : List Turn) : (s.setScript ts).ops = s.ops := rfl
@[simp] theorem State.setScript_result (s : State) (ts : List Turn) : (s.setScript ts).result = s.result := rfl
@[simp] theorem State.setScript_version (s : State) (ts : List Turn) : (s.setScript ts).version = s.version := rfl
@[simp] theorem State.setScript_placed (s : State) (ts : List Turn) : (s.setScript ts).placed = s.placed := rfl
@[simp] theorem State.setScript_mtx (s : State) (ts : List Turn) : (s.setScript ts).mtx = s.mtx := rfl
@[simp] theorem State.setScript_gen (s : State) (ts : List Turn) : (s.setScript ts).gen = s.gen := rfl
@[simp] theorem State.setScript_cwb (s : State) (ts : List Turn) : (s.setScript ts).cwb = s.cwb := rfl
@[simp] theorem State.setScript_pending (s : State) (ts : List Turn) : (s.setScript ts).pending = s.pending := rfl
@[simp] theorem State.setScript_latch (s : State) (ts : List Turn) : (s.setScript ts).latch = s.latch := rfl
@[simp] theorem State.setScript_resp (s : State) (ts : List Turn) : (s.setScript ts).resp = s.resp := rfl
@[simp] theorem State.setScript_script (s : State) (ts : List Turn) : (s.setScript ts).script = ts := rfl
@[simp] theorem State.setScript_draws (s : State) (ts : List Turn) : (s.setScript ts).draws = s.draws := rfl

/-! `setOvr` -/

@[simp] theorem State.setOvr_ie (s : State) : s.setOvr.ie = s.ie := rfl
@[simp] theorem State.setOvr_status (s : State) : s.setOvr.status = { s.status with ovr := true } := rfl
@[simp] theorem State.setOvr_ops (s : State) : s.setOvr.ops = s.ops := rfl
@[simp] theorem State.setOvr_result (s : State) : s.setOvr.result = s.result := rfl
@[simp] theorem State.setOvr_version (s : State) : s.setOvr.version = s.version := rfl
@[simp] theorem State.setOvr_placed (s : State) : s.setOvr.placed = s.placed := rfl
@[simp] theorem State.setOvr_mtx (s : State) : s.setOvr.mtx = s.mtx := rfl
@[simp] theorem State.setOvr_gen (s : State) : s.setOvr.gen = s.gen := rfl
@[simp] theorem State.setOvr_cwb (s : State) : s.setOvr.cwb = s.cwb := rfl
@[simp] theorem State.setOvr_pending (s : State) : s.setOvr.pending = s.pending := rfl
@[simp] theorem State.setOvr_latch (s : State) : s.setOvr.latch = s.latch := rfl
@[simp] theorem State.setOvr_resp (s : State) : s.setOvr.resp = s.resp := rfl
@[simp] theorem State.setOvr_script (s : State) : s.setOvr.script = s.script := rfl
@[simp] theorem State.setOvr_draws (s : State) : s.setOvr.draws = s.draws := rfl

/-! `respond` -/

@[simp] theorem State.respond_ie (s : State) (r : Option Word) : (s.respond r).ie = s.ie := rfl
@[simp] theorem State.respond_status (s : State) (r : Option Word) : (s.respond r).status = s.status := rfl
@[simp] theorem State.respond_ops (s : State) (r : Option Word) : (s.respond r).ops = s.ops := rfl
@[simp] theorem State.respond_result (s : State) (r : Option Word) : (s.respond r).result = s.result := rfl
@[simp] theorem State.respond_version (s : State) (r : Option Word) : (s.respond r).version = s.version := rfl
@[simp] theorem State.respond_placed (s : State) (r : Option Word) : (s.respond r).placed = s.placed := rfl
@[simp] theorem State.respond_mtx (s : State) (r : Option Word) : (s.respond r).mtx = s.mtx := rfl
@[simp] theorem State.respond_gen (s : State) (r : Option Word) : (s.respond r).gen = s.gen := rfl
@[simp] theorem State.respond_cwb (s : State) (r : Option Word) : (s.respond r).cwb = s.cwb := rfl
@[simp] theorem State.respond_pending (s : State) (r : Option Word) : (s.respond r).pending = s.pending := rfl
@[simp] theorem State.respond_latch (s : State) (r : Option Word) : (s.respond r).latch = s.latch := rfl
@[simp] theorem State.respond_resp (s : State) (r : Option Word) : (s.respond r).resp = r := rfl
@[simp] theorem State.respond_script (s : State) (r : Option Word) : (s.respond r).script = s.script := rfl
@[simp] theorem State.respond_draws (s : State) (r : Option Word) : (s.respond r).draws = s.draws := rfl

/-! `draw` -/

@[simp] theorem State.draw_ie (s : State) (n : Nat) : (s.draw n).ie = s.ie := rfl
@[simp] theorem State.draw_status (s : State) (n : Nat) : (s.draw n).status = s.status := rfl
@[simp] theorem State.draw_ops (s : State) (n : Nat) : (s.draw n).ops = s.ops := rfl
@[simp] theorem State.draw_result (s : State) (n : Nat) : (s.draw n).result = s.result := rfl
@[simp] theorem State.draw_version (s : State) (n : Nat) : (s.draw n).version = s.version := rfl
@[simp] theorem State.draw_placed (s : State) (n : Nat) : (s.draw n).placed = s.placed := rfl
@[simp] theorem State.draw_mtx (s : State) (n : Nat) : (s.draw n).mtx = s.mtx := rfl
@[simp] theorem State.draw_gen (s : State) (n : Nat) : (s.draw n).gen = s.gen := rfl
@[simp] theorem State.draw_cwb (s : State) (n : Nat) : (s.draw n).cwb = s.cwb := rfl
@[simp] theorem State.draw_pending (s : State) (n : Nat) : (s.draw n).pending = s.pending := rfl
@[simp] theorem State.draw_latch (s : State) (n : Nat) : (s.draw n).latch = s.latch := rfl
@[simp] theorem State.draw_resp (s : State) (n : Nat) : (s.draw n).resp = s.resp := rfl
@[simp] theorem State.draw_script (s : State) (n : Nat) : (s.draw n).script = s.script := rfl
@[simp] theorem State.draw_draws (s : State) (n : Nat) : (s.draw n).draws = s.draws + n := rfl

/-! `latchOperands` -/

@[simp] theorem State.latchOperands_ie (s : State) : s.latchOperands.ie = s.ie := rfl
@[simp] theorem State.latchOperands_status (s : State) : s.latchOperands.status = { s.status with done := false, errcode := none } := rfl
@[simp] theorem State.latchOperands_ops (s : State) : s.latchOperands.ops = s.ops := rfl
@[simp] theorem State.latchOperands_result (s : State) : s.latchOperands.result = s.result := rfl
@[simp] theorem State.latchOperands_version (s : State) : s.latchOperands.version = s.version := rfl
@[simp] theorem State.latchOperands_placed (s : State) : s.latchOperands.placed = s.placed := rfl
@[simp] theorem State.latchOperands_mtx (s : State) : s.latchOperands.mtx = s.mtx := rfl
@[simp] theorem State.latchOperands_gen (s : State) : s.latchOperands.gen = s.gen := rfl
@[simp] theorem State.latchOperands_cwb (s : State) : s.latchOperands.cwb = s.cwb := rfl
@[simp] theorem State.latchOperands_pending (s : State) : s.latchOperands.pending = s.pending := rfl
@[simp] theorem State.latchOperands_latch (s : State) : s.latchOperands.latch = s.ops := rfl
@[simp] theorem State.latchOperands_resp (s : State) : s.latchOperands.resp = s.resp := rfl
@[simp] theorem State.latchOperands_script (s : State) : s.latchOperands.script = s.script := rfl
@[simp] theorem State.latchOperands_draws (s : State) : s.latchOperands.draws = s.draws := rfl

/-! `start` -/

@[simp] theorem State.start_ie (s : State) (i : Instr) : (s.start i).ie = s.ie := rfl
@[simp] theorem State.start_status (s : State) (i : Instr) : (s.start i).status = { s.status with busy := true } := rfl
@[simp] theorem State.start_ops (s : State) (i : Instr) : (s.start i).ops = s.ops := rfl
@[simp] theorem State.start_result (s : State) (i : Instr) : (s.start i).result = s.result := rfl
@[simp] theorem State.start_version (s : State) (i : Instr) : (s.start i).version = s.version := rfl
@[simp] theorem State.start_placed (s : State) (i : Instr) : (s.start i).placed = s.placed := rfl
@[simp] theorem State.start_mtx (s : State) (i : Instr) : (s.start i).mtx = s.mtx := rfl
@[simp] theorem State.start_gen (s : State) (i : Instr) : (s.start i).gen = s.gen := rfl
@[simp] theorem State.start_cwb (s : State) (i : Instr) : (s.start i).cwb = s.cwb := rfl
@[simp] theorem State.start_pending (s : State) (i : Instr) : (s.start i).pending = some i := rfl
@[simp] theorem State.start_latch (s : State) (i : Instr) : (s.start i).latch = s.latch := rfl
@[simp] theorem State.start_resp (s : State) (i : Instr) : (s.start i).resp = s.resp := rfl
@[simp] theorem State.start_script (s : State) (i : Instr) : (s.start i).script = s.script := rfl
@[simp] theorem State.start_draws (s : State) (i : Instr) : (s.start i).draws = s.draws := rfl

/-! `raiseError` -/

@[simp] theorem State.raiseError_ie (s : State) (e : ErrCode) : (s.raiseError e).ie = s.ie := rfl
@[simp] theorem State.raiseError_status (s : State) (e : ErrCode) : (s.raiseError e).status = { s.status with busy := false, done := true, errcode := some e } := rfl
@[simp] theorem State.raiseError_ops (s : State) (e : ErrCode) : (s.raiseError e).ops = s.ops := rfl
@[simp] theorem State.raiseError_result (s : State) (e : ErrCode) : (s.raiseError e).result = s.result := rfl
@[simp] theorem State.raiseError_version (s : State) (e : ErrCode) : (s.raiseError e).version = s.version := rfl
@[simp] theorem State.raiseError_placed (s : State) (e : ErrCode) : (s.raiseError e).placed = s.placed := rfl
@[simp] theorem State.raiseError_mtx (s : State) (e : ErrCode) : (s.raiseError e).mtx = s.mtx := rfl
@[simp] theorem State.raiseError_gen (s : State) (e : ErrCode) : (s.raiseError e).gen = s.gen := rfl
@[simp] theorem State.raiseError_cwb (s : State) (e : ErrCode) : (s.raiseError e).cwb = s.cwb := rfl
@[simp] theorem State.raiseError_pending (s : State) (e : ErrCode) : (s.raiseError e).pending = none := rfl
@[simp] theorem State.raiseError_latch (s : State) (e : ErrCode) : (s.raiseError e).latch = s.latch := rfl
@[simp] theorem State.raiseError_resp (s : State) (e : ErrCode) : (s.raiseError e).resp = s.resp := rfl
@[simp] theorem State.raiseError_script (s : State) (e : ErrCode) : (s.raiseError e).script = s.script := rfl
@[simp] theorem State.raiseError_draws (s : State) (e : ErrCode) : (s.raiseError e).draws = s.draws := rfl

/-! `complete` -/

@[simp] theorem State.complete_ie (s : State) : s.complete.ie = s.ie := rfl
@[simp] theorem State.complete_status (s : State) : s.complete.status = { s.status with busy := false, done := true, errcode := none } := rfl
@[simp] theorem State.complete_ops (s : State) : s.complete.ops = s.ops := rfl
@[simp] theorem State.complete_result (s : State) : s.complete.result = s.result := rfl
@[simp] theorem State.complete_version (s : State) : s.complete.version = s.version := rfl
@[simp] theorem State.complete_placed (s : State) : s.complete.placed = s.placed := rfl
@[simp] theorem State.complete_mtx (s : State) : s.complete.mtx = s.mtx := rfl
@[simp] theorem State.complete_gen (s : State) : s.complete.gen = s.gen := rfl
@[simp] theorem State.complete_cwb (s : State) : s.complete.cwb = s.cwb := rfl
@[simp] theorem State.complete_pending (s : State) : s.complete.pending = none := rfl
@[simp] theorem State.complete_latch (s : State) : s.complete.latch = s.latch := rfl
@[simp] theorem State.complete_resp (s : State) : s.complete.resp = s.resp := rfl
@[simp] theorem State.complete_script (s : State) : s.complete.script = s.script := rfl
@[simp] theorem State.complete_draws (s : State) : s.complete.draws = s.draws := rfl

/-! `softReset` -/

@[simp] theorem State.softReset_ie (s : State) : s.softReset.ie = false := rfl
@[simp] theorem State.softReset_status (s : State) : s.softReset.status = Status.idle := rfl
@[simp] theorem State.softReset_ops (s : State) : s.softReset.ops = Operands.zero := rfl
@[simp] theorem State.softReset_result (s : State) : s.softReset.result = 0 := rfl
@[simp] theorem State.softReset_version (s : State) : s.softReset.version = 0 := rfl
@[simp] theorem State.softReset_placed (s : State) : s.softReset.placed = 0 := rfl
@[simp] theorem State.softReset_mtx (s : State) : s.softReset.mtx = Grid.clear := rfl
@[simp] theorem State.softReset_gen (s : State) : s.softReset.gen = Vector.replicate Config.genLength 0 := rfl
@[simp] theorem State.softReset_cwb (s : State) : s.softReset.cwb = s.cancelledCwb := rfl
@[simp] theorem State.softReset_pending (s : State) : s.softReset.pending = none := rfl
@[simp] theorem State.softReset_latch (s : State) : s.softReset.latch = Operands.zero := rfl
@[simp] theorem State.softReset_resp (s : State) : s.softReset.resp = none := rfl
@[simp] theorem State.softReset_script (s : State) : s.softReset.script = s.script := rfl
@[simp] theorem State.softReset_draws (s : State) : s.softReset.draws = s.draws + s.outputRegion.2 := rfl

/-! `accept` -/

@[simp] theorem State.accept_ie (s : State) (i : Instr) : (s.accept i).ie = s.ie := rfl
@[simp] theorem State.accept_status (s : State) (i : Instr) : (s.accept i).status = { s.status with busy := true, done := false, errcode := none } := rfl
@[simp] theorem State.accept_ops (s : State) (i : Instr) : (s.accept i).ops = s.ops := rfl
@[simp] theorem State.accept_result (s : State) (i : Instr) : (s.accept i).result = s.result := rfl
@[simp] theorem State.accept_version (s : State) (i : Instr) : (s.accept i).version = s.version := rfl
@[simp] theorem State.accept_placed (s : State) (i : Instr) : (s.accept i).placed = s.placed := rfl
@[simp] theorem State.accept_mtx (s : State) (i : Instr) : (s.accept i).mtx = s.mtx := rfl
@[simp] theorem State.accept_gen (s : State) (i : Instr) : (s.accept i).gen = s.gen := rfl
@[simp] theorem State.accept_cwb (s : State) (i : Instr) : (s.accept i).cwb = s.cwb := rfl
@[simp] theorem State.accept_pending (s : State) (i : Instr) : (s.accept i).pending = some i := rfl
@[simp] theorem State.accept_latch (s : State) (i : Instr) : (s.accept i).latch = s.ops := rfl
@[simp] theorem State.accept_resp (s : State) (i : Instr) : (s.accept i).resp = s.resp := rfl
@[simp] theorem State.accept_script (s : State) (i : Instr) : (s.accept i).script = s.script := rfl
@[simp] theorem State.accept_draws (s : State) (i : Instr) : (s.accept i).draws = s.draws := rfl

/-! `withCommand` -/

@[simp] theorem State.withCommand_ie (s : State) (w : Word) : (s.withCommand w).ie = s.ie := rfl
@[simp] theorem State.withCommand_status (s : State) (w : Word) : (s.withCommand w).status = { s.status with busy := false } := rfl
@[simp] theorem State.withCommand_ops (s : State) (w : Word) : (s.withCommand w).ops = s.ops := rfl
@[simp] theorem State.withCommand_result (s : State) (w : Word) : (s.withCommand w).result = s.result := rfl
@[simp] theorem State.withCommand_version (s : State) (w : Word) : (s.withCommand w).version = s.version := rfl
@[simp] theorem State.withCommand_placed (s : State) (w : Word) : (s.withCommand w).placed = s.placed := rfl
@[simp] theorem State.withCommand_mtx (s : State) (w : Word) : (s.withCommand w).mtx = s.mtx := rfl
@[simp] theorem State.withCommand_gen (s : State) (w : Word) : (s.withCommand w).gen = s.gen := rfl
@[simp] theorem State.withCommand_cwb (s : State) (w : Word) : (s.withCommand w).cwb = s.cwb := rfl
@[simp] theorem State.withCommand_pending (s : State) (w : Word) : (s.withCommand w).pending = none := rfl
@[simp] theorem State.withCommand_latch (s : State) (w : Word) : (s.withCommand w).latch = s.latch := rfl
@[simp] theorem State.withCommand_resp (s : State) (w : Word) : (s.withCommand w).resp = s.resp := rfl
@[simp] theorem State.withCommand_script (s : State) (w : Word) : (s.withCommand w).script = commandTurn w :: s.script := rfl
@[simp] theorem State.withCommand_draws (s : State) (w : Word) : (s.withCommand w).draws = s.draws := rfl

end Sys2Proof.Machine
end

