-- ==== Sys2Proof/Laws/Command.lean ====
section
/-! SUPPORT. What the shared operations of a command and of the bus can do, said once: performing a command, its checks and
effects, its issue, a host access, the completion step and a turn. -/

namespace Sys2Proof.Machine

/-! ### The checks -/

/-- The first failing check is reported: `firstError` of a list that starts with a check. -/
@[simp] theorem firstError_cons (ok : Bool) (e : ErrCode) (rest : List (Bool × ErrCode)) :
    firstError ((ok, e) :: rest) = if ok then firstError rest else some e := rfl

@[simp] theorem firstError_nil : firstError [] = none := rfl

/-- The checks read the operand latches and `VERSION`, and nothing else (R233). -/
theorem check_congr (i : Instr) {s t : State} (hl : t.latch = s.latch) (hv : t.version = s.version) :
    check i t = check i s := by
  cases i <;>
    simp only [check, checkGfMul, checkRsGenpoly, checkRsEncode, checkIlv, checkMtxBuild, checkZzPlace, State.ver, hl, hv]

/-! ### Performing a command -/

theorem perform_of_error {s : State} {check : State → Option ErrCode} {e : ErrCode}
    (effect : State → Except Nat State) (h : check s = some e) :
    s.perform check effect = .next (s.raiseError e) := by
  simp [State.perform, h]

theorem perform_of_ok {s s' : State} {check : State → Option ErrCode} {effect : State → Except Nat State}
    (h : check s = none) (he : effect s = .ok s') : s.perform check effect = .next s'.complete := by
  simp [State.perform, h, he]

theorem perform_of_unwritten {s : State} {check : State → Option ErrCode} {effect : State → Except Nat State} {a : Nat}
    (h : check s = none) (he : effect s = .error a) : s.perform check effect = .fault (.unwrittenCwb a) := by
  simp [State.perform, h, he]

/-- The effect of each command, as its rule gives it after the checks. -/
def effectOf : Instr → State → Except Nat State
  | .gfMul => effectGfMul
  | .rsGenpoly => effectRsGenpoly
  | .rsEncode => effectRsEncode
  | .ilv => effectIlv
  | .mtxBuild => effectMtxBuild
  | .zzPlace => effectZzPlace

/-- Every command is performed in one way: its checks, then its effect. -/
theorem exec_eq_perform (i : Instr) (s : State) : exec i s = s.perform (check i) (effectOf i) := by
  cases i <;> rfl

/-- Everything the engine can answer for a command. -/
theorem exec_cases (i : Instr) (s : State) :
    (∃ e, check i s = some e ∧ exec i s = .next (s.raiseError e)) ∨
      (∃ s', check i s = none ∧ effectOf i s = .ok s' ∧ exec i s = .next s'.complete) ∨
        (∃ a, check i s = none ∧ effectOf i s = .error a ∧ exec i s = .fault (.unwrittenCwb a)) := by
  rw [exec_eq_perform]
  cases hc : check i s with
  | some e => exact .inl ⟨e, rfl, perform_of_error _ hc⟩
  | none =>
    cases he : effectOf i s with
    | ok s' => exact .inr (.inl ⟨s', rfl, rfl, perform_of_ok hc he⟩)
    | error a => exact .inr (.inr ⟨a, rfl, rfl, perform_of_unwritten hc he⟩)

/-! ### The effects that read the codeword buffer -/

theorem effectRsEncode_of_snapshot {s : State} {d : List Byte}
    (h : s.cwb.snapshot s.latch.source s.latch.length = .ok d) :
    effectRsEncode s =
      .ok ((s.setGen (genpoly s.latch.degree)).setCwb
        (s.cwb.writeAll s.latch.dest (rsRemainder d (genpoly s.latch.degree)))) := by
  simp only [effectRsEncode, h]; rfl

theorem effectIlv_of_snapshot {s : State} {d : List Byte}
    (h : s.cwb.snapshot s.latch.source (dataCodewords s.latch.symbolVersion) = .ok d) :
    effectIlv s =
      .ok ((s.setGen (genpoly (blockTable s.latch.symbolVersion).ecc)).setCwb
        (s.cwb.writeAll s.latch.dest (interleavedCodewords d s.latch.symbolVersion))) := by
  simp only [effectIlv, h]; rfl

theorem effectZzPlace_of_snapshot {s : State} {d : List Byte}
    (h : s.cwb.snapshot s.latch.source s.latch.length = .ok d) :
    effectZzPlace s =
      .ok ((s.setMtx (thread d 0 (walk s.mtx s.size) s.mtx)).setPlaced
        (placedWord (walk s.mtx s.size).length (min (8 * s.latch.length) (walk s.mtx s.size).length))) := by
  simp only [effectZzPlace, h]; rfl

/-- Each effect that reads the buffer stops where the snapshot of its input does. -/
theorem effect_of_unwritten {s : State} {a : Nat} :
    (s.cwb.snapshot s.latch.source s.latch.length = .error a →
      effectRsEncode s = .error a ∧ effectZzPlace s = .error a) ∧
    (s.cwb.snapshot s.latch.source (dataCodewords s.latch.symbolVersion) = .error a → effectIlv s = .error a) := by
  refine ⟨fun h => ⟨?_, ?_⟩, fun h => ?_⟩
  · simp only [effectRsEncode, h]; rfl
  · simp only [effectZzPlace, h]; rfl
  · simp only [effectIlv, h]; rfl

/-- Everything that a successful effect changes, command by command (R49). -/
theorem effectOf_cases {i : Instr} {s u : State} (h : effectOf i s = .ok u) :
    (i = .gfMul ∧ ∃ b : Byte, u = s.setResult (b.zeroExtend 32)) ∨
      (i = .rsGenpoly ∧ ∃ g, u = s.setGen g) ∨
        ((i = .rsEncode ∨ i = .ilv) ∧ ∃ g vs, u = (s.setGen g).setCwb (s.cwb.writeAll s.latch.dest vs)) ∨
          (i = .mtxBuild ∧
            u = ((s.setMtx (builtMatrix s.latch.symbolVersion)).setVersion (versionWord s.latch.symbolVersion)).setPlaced 0) ∨
            (i = .zzPlace ∧ ∃ d p, u = (s.setMtx (thread d 0 (walk s.mtx s.size) s.mtx)).setPlaced p) := by
  cases i with
  | gfMul => cases h; exact .inl ⟨rfl, _, rfl⟩
  | rsGenpoly => cases h; exact .inr (.inl ⟨rfl, _, rfl⟩)
  | mtxBuild => cases h; exact .inr (.inr (.inr (.inl ⟨rfl, rfl⟩)))
  | rsEncode =>
    cases hx : s.cwb.snapshot s.latch.source s.latch.length with
    | ok d => cases (effectRsEncode_of_snapshot hx).symm.trans h; exact .inr (.inr (.inl ⟨.inl rfl, _, _, rfl⟩))
    | error a => cases (effect_of_unwritten.1 hx).1.symm.trans h
  | ilv =>
    cases hx : s.cwb.snapshot s.latch.source (dataCodewords s.latch.symbolVersion) with
    | ok d => cases (effectIlv_of_snapshot hx).symm.trans h; exact .inr (.inr (.inl ⟨.inr rfl, _, _, rfl⟩))
    | error a => cases (effect_of_unwritten.2 hx).symm.trans h
  | zzPlace =>
    cases hx : s.cwb.snapshot s.latch.source s.latch.length with
    | ok d => cases (effectZzPlace_of_snapshot hx).symm.trans h; exact .inr (.inr (.inr (.inr ⟨rfl, _, _, rfl⟩)))
    | error a => cases (effect_of_unwritten.1 hx).2.symm.trans h

/-! ### Lengths -/

/-- One more factor makes the polynomial one coefficient longer. -/
@[simp] theorem mulByRoot_length (g : List Byte) (a : Byte) : (mulByRoot g a).length = g.length + 1 := by
  simp [mulByRoot]

@[simp] theorem genpoly_zero : genpoly 0 = [0x01] := rfl

theorem genpoly_succ (n : Nat) : genpoly (n + 1) = mulByRoot (genpoly n) (EXP n) := by
  simp [genpoly, List.range_succ]

/-- A remainder register keeps its length. -/
theorem remainderStep_length {g r : List Byte} (d : Byte) (h : r.length + 1 = g.length) (hr : r ≠ []) :
    (remainderStep g r d).length = r.length := by
  have := List.length_pos_iff.2 hr
  simp [remainderStep]; omega

/-! ### The issue of a command (R232) -/

theorem issueCommand_of_busy {s : State} (w : Word) (h : s.status.busy = true) : issueCommand w s = s.setOvr := by
  simp [issueCommand, h]

theorem issueCommand_of_illegal {s : State} {w : Word} (h : s.status.busy = false) (hd : decode w = .illegal) :
    issueCommand w s = s.latchOperands.raiseError .badCmd := by
  simp [issueCommand, h, hd]

theorem issueCommand_of_error {s : State} {w : Word} {i : Instr} {e : ErrCode} (h : s.status.busy = false)
    (hd : decode w = .command i) (hc : check i s.latchOperands = some e) :
    issueCommand w s = s.latchOperands.raiseError e := by
  simp [issueCommand, h, hd, hc]

theorem issueCommand_of_ok {s : State} {w : Word} {i : Instr} (h : s.status.busy = false)
    (hd : decode w = .command i) (hc : check i s.latchOperands = none) : issueCommand w s = s.accept i := by
  simp [issueCommand, h, hd, hc]

/-- Everything a `CMD` write can do. -/
theorem issueCommand_cases (w : Word) (s : State) :
    (s.status.busy = true ∧ issueCommand w s = s.setOvr) ∨
      (s.status.busy = false ∧ ∃ e, issueCommand w s = s.latchOperands.raiseError e) ∨
        (s.status.busy = false ∧ ∃ i, decode w = .command i ∧ check i s.latchOperands = none ∧
          issueCommand w s = s.accept i) := by
  cases h : s.status.busy with
  | true => exact .inl ⟨rfl, issueCommand_of_busy w h⟩
  | false =>
    cases hd : decode w with
    | illegal => exact .inr (.inl ⟨rfl, _, issueCommand_of_illegal h hd⟩)
    | command i =>
      cases hc : check i s.latchOperands with
      | some e => exact .inr (.inl ⟨rfl, e, issueCommand_of_error h hd hc⟩)
      | none => exact .inr (.inr ⟨rfl, i, rfl, hc, issueCommand_of_ok h hd hc⟩)

/-! ### A host access -/

/-- The bus admits exactly the well-formed accesses (R78). -/
theorem admitted_eq_wf (a : Access) : admitted a = a.wf := rfl

theorem busAccess_of_not_admitted {a : Access} (s : State) (h : admitted a = false) :
    busAccess a s = .fault (.busError a.addr) := by
  simp [busAccess, h]

theorem busAccess_of_admitted {a : Access} (s : State) (h : admitted a = true) : busAccess a s = admittedAccess a s := by
  simp [busAccess, h]

theorem busAccess_write_word {a : Addr} {w : Word} (s : State) (h : admitted (.write a .word w) = true) :
    busAccess (.write a .word w) s = .next ((writeRegAt a.toNat w s).respond none) := busAccess_of_admitted s h

theorem busAccess_write_byte {a : Addr} {w : Word} (s : State) (h : admitted (.write a .byte w) = true) :
    busAccess (.write a .byte w) s = .next ((writeWindow (windowAt a.toNat) (w.extractLsb' 0 8) s).respond none) :=
  busAccess_of_admitted s h

/-- A register read changes the response and the count of draws, and nothing else. -/
theorem readReg_eq (off : Nat) (s : State) : ∃ r n, readReg off s = (s.respond r).draw n := by
  simp only [readReg]
  split
  · exact ⟨some 0, 0, rfl⟩
  · split
    · exact ⟨_, 1, rfl⟩
    · exact ⟨some (s.regValue _), 0, rfl⟩

/-- A window read answers data, or faults on an unwritten `CWB` byte of an idle block. -/
theorem readWindow_cases (w : Window) (s : State) :
    (∃ r n, readWindow w s = .next ((s.respond r).draw n)) ∨
      (∃ a, w = .cwb a ∧ s.status.busy = false ∧ s.cwb.read a = none ∧
        readWindow w s = .fault (.unwrittenCwb a)) := by
  have byte : ∀ b : Byte, ∃ r n, Host.Outcome.next (s.respondByte b) =
      (.next ((s.respond r).draw n) : Result) := fun b => ⟨some (b.zeroExtend 32), 0, rfl⟩
  have free : ∃ r n, Host.Outcome.next s.respondFreeByte = (.next ((s.respond r).draw n) : Result) := ⟨_, 1, rfl⟩
  cases w with
  | gen k => left; simp only [readWindow]; split <;> [exact free; exact byte _]
  | log v => exact .inl (byte _)
  | exp i => exact .inl (byte _)
  | reserved => exact .inl (byte _)
  | mtx r c => left; simp only [readWindow]; split <;> [exact free; exact byte _]
  | cwb a =>
    simp only [readWindow, readCwbWindow]
    cases hb : s.status.busy with
    | true => exact .inl free
    | false =>
      cases hr : s.cwb.read a with
      | some b => exact .inl (byte b)
      | none => exact .inr ⟨a, rfl, rfl, hr, rfl⟩

/-! ### The engine's step and the turns -/

theorem completionStep_of_pending {s : State} {i : Instr} (h : s.pending = some i) : completionStep s = exec i s := by
  simp [completionStep, h]

theorem completionStep_of_idle {s : State} (h : s.pending = none) : completionStep s = .next s := by
  simp [completionStep, h]

theorem step_of_empty {s : State} (h : s.script = []) : step s = completionStep s := by
  simp [step, nextTurn, h]

theorem step_of_turn {s : State} {t : Turn} {ts : List Turn} (h : s.script = t :: ts) :
    step s = runTurn t (s.setScript ts) := by
  simp [step, nextTurn, h]

theorem runTurn_access {a : Access} {c : Bool} {s s' : State} (h : busAccess a s = .next s') :
    runTurn (.access a c) s = if c then completionStep s' else .next s' := by
  simp [runTurn, h]

theorem runTurn_engine (s : State) : runTurn .engine s = completionStep s := rfl

theorem runTurn_fault {a : Access} {s : State} {f : Fault} (c : Bool) (h : busAccess a s = .fault f) :
    runTurn (.access a c) s = .fault f := by
  simp [runTurn, h]

end Sys2Proof.Machine
end

