-- ==== Sys2Proof/Laws/Grid.lean ====
section
/-! SUPPORT. The laws of the matrix and of the coefficient file: a read after an update. -/

namespace Sys2Proof.Machine

/-- An update is seen at its own cell and nowhere else; outside the storage it changes nothing. -/
theorem Grid.cell_update (m : Grid) (r c : Nat) (f : Cell → Cell) (x y : Nat) :
    (m.update r c f).cell x y =
      if x = r ∧ y = c ∧ r < Config.maxSize ∧ c < Config.maxSize then f (m.cell x y) else m.cell x y := by
  have hlen : ∀ v : Vector Cell Config.maxSize, v.toList.length = Config.maxSize := fun v => by simp
  simp only [Grid.cell, Grid.update, Vector.toList]
  rw [List.getElem?_modify]
  by_cases hx : x < Config.maxSize
  · have h1 : m.toArray.toList[x]? = some (m.toArray.toList[x]'(by simpa using hx)) :=
      List.getElem?_eq_getElem _
    rw [h1]
    by_cases hr : r = x
    · subst hr
      simp only [if_true, true_and, hx, Option.map_eq_map, Option.map_some]
      rw [List.getD_eq_getElem?_getD, List.getElem?_modify, List.getD_eq_getElem?_getD]
      by_cases hy : y < Config.maxSize
      · have h2 : (m.toArray.toList[r]'(by simpa using hx)).toArray.toList[y]? =
            some ((m.toArray.toList[r]'(by simpa using hx)).toArray.toList[y]'(by simpa using hy)) :=
          List.getElem?_eq_getElem _
        rw [h2]
        by_cases hc : c = y
        · subst hc; simp [hy]
        · simp [hc, Ne.symm hc]
      · have h2 : (m.toArray.toList[r]'(by simpa using hx)).toArray.toList[y]? = none := by
          rw [List.getElem?_eq_none_iff]; simpa using hy
        rw [h2, if_neg (by rintro ⟨rfl, h⟩; exact hy h)]
        simp
    · simp [hr, Ne.symm hr]
  · have h1 : m.toArray.toList[x]? = none := by
      rw [List.getElem?_eq_none_iff]; simpa using hx
    rw [h1, if_neg (by rintro ⟨rfl, -, h, -⟩; exact hx h)]
    simp

/-- Outside the storage there is no cell to read: a clear one is answered. -/
theorem Grid.cell_outside (m : Grid) {r c : Nat} (h : Config.maxSize ≤ r ∨ Config.maxSize ≤ c) :
    m.cell r c = Cell.clear := by
  simp only [Grid.cell]
  split
  · next row hrow =>
    obtain ⟨hr, -⟩ := List.getElem?_eq_some_iff.1 hrow
    rw [List.getD_eq_getElem?_getD, List.getElem?_eq_none_iff.2, Option.getD_none]
    simp only [Vector.length_toList] at hr ⊢
    omega
  · rfl

/-- The cleared matrix is clear everywhere. -/
theorem Grid.cell_clear (r c : Nat) : Grid.clear.cell r c = Cell.clear := by
  simp only [Grid.cell, Grid.clear]
  split
  · next row hrow =>
    have h := List.mem_of_getElem? hrow
    simp only [Vector.toList_replicate, List.mem_replicate] at h
    rw [h.2, Vector.toList_replicate, List.getD_eq_getElem?_getD, List.getElem?_replicate]
    split <;> rfl
  · rfl

/-- Two matrices that agree at every cell are equal. -/
theorem Grid.ext_cell {m m' : Grid} (h : ∀ r c, m.cell r c = m'.cell r c) : m = m' := by
  ext r hr c hc
  all_goals
    have := h r c
    simp only [Grid.cell] at this
    simp_all [List.getD_eq_getElem?_getD]

/-- The cell at `(x, y)` after `put(r, c, b)`. -/
theorem Grid.cell_put (m : Grid) (r c : Nat) (b : Bool) (x y : Nat) :
    (m.put r c b).cell x y =
      if x = r ∧ y = c ∧ r < Config.maxSize ∧ c < Config.maxSize then ⟨b, true, true⟩ else m.cell x y :=
  Grid.cell_update m r c _ x y

/-- The cell at `(x, y)` after `M(r, c).rsv <- 1`. -/
theorem Grid.cell_reserve (m : Grid) (r c x y : Nat) :
    (m.reserve r c).cell x y =
      if x = r ∧ y = c ∧ r < Config.maxSize ∧ c < Config.maxSize then
        ⟨(m.cell x y).val, (m.cell x y).set, true⟩
      else m.cell x y :=
  Grid.cell_update m r c _ x y

/-- The cell at `(x, y)` after `M(r, c)` gets a data colour. -/
theorem Grid.cell_colour (m : Grid) (r c : Nat) (b : Bool) (x y : Nat) :
    (m.colour r c b).cell x y =
      if x = r ∧ y = c ∧ r < Config.maxSize ∧ c < Config.maxSize then ⟨b, true, (m.cell x y).rsv⟩ else m.cell x y :=
  Grid.cell_update m r c _ x y

/-- A cell that the placer does not list keeps its contents. -/
theorem thread_cell_of_not_mem (stream : List Byte) (cells : List (Nat × Nat)) (k : Nat) (m : Grid) {r c : Nat}
    (h : (r, c) ∉ cells) : (thread stream k cells m).cell r c = m.cell r c := by
  induction cells generalizing k m with
  | nil => rfl
  | cons p cells ih =>
    obtain ⟨x, y⟩ := p
    simp only [List.mem_cons, not_or, Prod.mk.injEq] at h
    rw [thread, ih _ _ h.2, Grid.cell_colour, if_neg fun hx => h.1 ⟨hx.1, hx.2.1⟩]

/-- Threading changes no `rsv`. -/
theorem thread_cell_rsv (stream : List Byte) (cells : List (Nat × Nat)) (k : Nat) (m : Grid) (r c : Nat) :
    ((thread stream k cells m).cell r c).rsv = (m.cell r c).rsv := by
  induction cells generalizing k m with
  | nil => rfl
  | cons p cells ih =>
    obtain ⟨x, y⟩ := p
    rw [thread, ih, Grid.cell_colour]; split <;> rfl

/-- The walk lists no reserved cell (R210). -/
theorem not_mem_walk_of_rsv {m : Grid} {s r c : Nat} (h : (m.cell r c).rsv = true) : (r, c) ∉ walk m s := by
  simp [walk, h]

/-- `GEN[k]` after `store_gen`. -/
theorem genCoefficient_genFile (g : List Byte) (k : Nat) :
    genCoefficient (genFile g) k = if k < Config.genLength then g.getD k 0 else 0 := by
  simp only [genCoefficient, genFile, Vector.toList]
  rw [List.getD_eq_getElem?_getD, List.getElem?_map]
  by_cases h : k < Config.genLength
  · simp [h]
  · rw [if_neg h, List.getElem?_eq_none_iff.2 (by simpa using h)]; rfl

end Sys2Proof.Machine
end

