-- ==== Sys2Proof/Laws/PerInstr.lean ====
section
/-! SUPPORT. The family `RoundTrip`: what holds of every command as syntax, one lemma for each constructor. -/

namespace Sys2Proof.Laws

/-- The command is well formed, its word has the reserved bits 31:8 zero, and the decoder reads it back (R101–R103). -/
def RoundTrip.Statement (i : Instr) : Prop :=
  i.wf = true ∧ rsvdField (encode i) = 0 ∧ decode (encode i) = .command i

theorem RoundTrip.gfMul : RoundTrip.Statement .gfMul := ⟨rfl, rfl, rfl⟩
theorem RoundTrip.rsGenpoly : RoundTrip.Statement .rsGenpoly := ⟨rfl, rfl, rfl⟩
theorem RoundTrip.rsEncode : RoundTrip.Statement .rsEncode := ⟨rfl, rfl, rfl⟩
theorem RoundTrip.ilv : RoundTrip.Statement .ilv := ⟨rfl, rfl, rfl⟩
theorem RoundTrip.mtxBuild : RoundTrip.Statement .mtxBuild := ⟨rfl, rfl, rfl⟩
theorem RoundTrip.zzPlace : RoundTrip.Statement .zzPlace := ⟨rfl, rfl, rfl⟩

end Sys2Proof.Laws
end

