-- ==== Sys2Proof/Laws/Step.lean ====
section
/-! SUPPORT. Everything a step can do, said once: a property of states is kept by every step if the block's few primitive changes
keep it. -/

namespace Sys2Proof.Machine

/-- Where a read completes, only the response and the count of draws are new. -/
theorem busAccess_read_next {addr : Addr} {size : AccessSize} {s t : State}
    (h : busAccess (.read addr size) s = .next t) : ∃ r n, t = (s.respond r).draw n := by
  by_cases ha : admitted (.read addr size) = true
  · rw [busAccess_of_admitted s ha] at h
    cases size with
    | half => cases h
    | word => cases h; exact readReg_eq _ _
    | byte =>
      rcases readWindow_cases (windowAt addr.toNat) s with ⟨r, n, hr⟩ | ⟨a, -, -, -, hr⟩
      · exact ⟨r, n, Host.Outcome.next.inj (h.symm.trans hr)⟩
      · cases h.symm.trans hr
  · rw [busAccess_of_not_admitted s (by simpa using ha)] at h; cases h

/-- Where a write completes, it wrote a register or a window, and returned no data. -/
theorem busAccess_write_next {addr : Addr} {size : AccessSize} {w : Word} {s t : State}
    (h : busAccess (.write addr size w) s = .next t) :
    (t = (writeRegAt addr.toNat w s).respond none ∧ size = .word) ∨
      t = (writeWindow (windowAt addr.toNat) (w.extractLsb' 0 8) s).respond none := by
  by_cases ha : admitted (.write addr size w) = true
  · rw [busAccess_of_admitted s ha] at h
    cases size with
    | half => cases h
    | word => cases h; exact .inl ⟨rfl, rfl⟩
    | byte => cases h; exact .inr rfl
  · rw [busAccess_of_not_admitted s (by simpa using ha)] at h; cases h

/-- `o'` is `o` with one operand replaced by the implemented bits of the written word (R38). -/
def Operands.writtenFrom (o : Operands) (w : Word) (o' : Operands) : Prop :=
  o' = { o with opa := keep8 w } ∨ o' = { o with opb := keep8 w } ∨ o' = { o with src := keep10 w } ∨
    o' = { o with dst := keep10 w } ∨ o' = { o with len := keep11 w }

/-- A register write is one of: nothing, a `CTRL` or `STATUS` write, a command's issue, or an operand register's new bits. -/
theorem writeReg_cases (r : Reg) (w : Word) (s : State) :
    writeReg r w s = s ∨ writeReg r w s = s.softReset ∨ (∃ b, writeReg r w s = s.setIe b) ∨
      writeReg r w s = writeStatus w s ∨ writeReg r w s = issueCommand w s ∨
        ∃ o, writeReg r w s = s.setOps o ∧ s.ops.writtenFrom w o := by
  have operand : ∀ o, s.ops.writtenFrom w o → ∃ o', s.setOps o = s.setOps o' ∧ s.ops.writtenFrom w o' :=
    fun o ho => ⟨o, rfl, ho⟩
  cases r with
  | ctrl =>
    simp only [writeReg, writeCtrl]
    split
    · exact .inr (.inl rfl)
    · exact .inr (.inr (.inl ⟨_, rfl⟩))
  | status => exact .inr (.inr (.inr (.inl rfl)))
  | cmd => exact .inr (.inr (.inr (.inr (.inl rfl))))
  | opa => exact .inr (.inr (.inr (.inr (.inr (operand _ (.inl rfl))))))
  | opb => exact .inr (.inr (.inr (.inr (.inr (operand _ (.inr (.inl rfl)))))))
  | src => exact .inr (.inr (.inr (.inr (.inr (operand _ (.inr (.inr (.inl rfl))))))))
  | dst => exact .inr (.inr (.inr (.inr (.inr (operand _ (.inr (.inr (.inr (.inl rfl)))))))))
  | len => exact .inr (.inr (.inr (.inr (.inr (operand _ (.inr (.inr (.inr (.inr rfl)))))))))
  | id => exact .inl rfl
  | result => exact .inl rfl
  | version => exact .inl rfl
  | placed => exact .inl rfl

/-- The packaged induction: `P` is kept by every step once the primitive changes of the state keep it. -/
theorem step_keeps {P : State → Prop}
    (script : ∀ s ts, P s → P (s.setScript ts))
    (respond : ∀ s r, P s → P (s.respond r))
    (draw : ∀ s n, P s → P (s.draw n))
    (ovr : ∀ s, s.status.busy = true → P s → P s.setOvr)
    (ie : ∀ s b, P s → P (s.setIe b))
    (acknowledge : ∀ s w, P s → P (writeStatus w s))
    (operands : ∀ s w o, s.ops.writtenFrom w o → P s → P (s.setOps o))
    (buffer : ∀ s a b, s.status.busy = false → P s → P (s.setCwb (s.cwb.write a b)))
    (reset : ∀ s, P s → P s.softReset)
    (error : ∀ s e, s.status.busy = false → P s → P (s.latchOperands.raiseError e))
    (accept : ∀ s i, s.status.busy = false → check i s.latchOperands = none → P s → P (s.accept i))
    (perform : ∀ s i t, s.pending = some i → P s → exec i s = .next t → P t) :
    ∀ s t, P s → step s = .next t → P t := by
  have engine : ∀ s t, P s → completionStep s = .next t → P t := by
    intro s t hs h
    cases hp : s.pending with
    | none => rw [completionStep_of_idle hp] at h; cases h; exact hs
    | some i => rw [completionStep_of_pending hp] at h; exact perform s i t hp hs h
  have issue : ∀ s w, P s → P (issueCommand w s) := by
    intro s w hs
    rcases issueCommand_cases w s with ⟨hb, h⟩ | ⟨hb, e, h⟩ | ⟨hb, i, -, hc, h⟩ <;> rw [h]
    · exact ovr s hb hs
    · exact error s e hb hs
    · exact accept s i hb hc hs
  have access : ∀ a s t, P s → busAccess a s = .next t → P t := by
    intro a s t hs h
    cases a with
    | read addr size => obtain ⟨r, n, rfl⟩ := busAccess_read_next h; exact draw _ n (respond _ r hs)
    | write addr size w =>
      rcases busAccess_write_next h with ⟨rfl, -⟩ | rfl
      · apply respond
        simp only [writeRegAt]
        split
        · exact hs
        · next r _ =>
          rcases writeReg_cases r w s with h | h | ⟨b, h⟩ | h | h | ⟨o, h, ho⟩ <;> rw [h]
          · exact hs
          · exact reset s hs
          · exact ie s b hs
          · exact acknowledge s w hs
          · exact issue s w hs
          · exact operands s w o ho hs
      · apply respond
        cases windowAt addr.toNat with
        | cwb a =>
          simp only [writeWindow]
          split
          · next hb => exact ovr s hb hs
          · next hb => exact buffer s a _ (Bool.eq_false_iff.2 hb) hs
        | _ => exact hs
  intro s t hs h
  cases hsc : s.script with
  | nil => rw [step_of_empty hsc] at h; exact engine s t hs h
  | cons turn ts =>
    rw [step_of_turn hsc] at h
    have hs' := script s ts hs
    cases turn with
    | engine => exact engine _ t hs' h
    | access a c =>
      cases hb : busAccess a (s.setScript ts) with
      | next s' =>
        rw [runTurn_access hb] at h
        have hs2 := access a _ s' hs' hb
        split at h
        · exact engine s' t hs2 h
        · cases h; exact hs2
      | fault f => rw [runTurn_fault c hb] at h; cases h
      | refused r => simp only [runTurn, hb] at h; cases h

/-- A property that a completion keeps: `P` is kept by `exec` once errors, completions and the six effects keep it. -/
theorem exec_keeps {P : State → Prop} {s t : State} {i : Instr} (h : exec i s = .next t)
    (error : ∀ e, P (s.raiseError e)) (complete : ∀ u, P u → P u.complete)
    (effect : ∀ u, check i s = none → effectOf i s = .ok u → P u) : P t := by
  rcases exec_cases i s with ⟨e, -, h2⟩ | ⟨u, hc, he, h2⟩ | ⟨a, -, -, h2⟩
  · rw [h2] at h; cases h; exact error e
  · rw [h2] at h; cases h; exact complete u (effect u hc he)
  · rw [h2] at h; cases h

end Sys2Proof.Machine
end

