-- ==== Sys2Proof/Tests/Slice0.lean ====
section
/-! SUPPORT. The model's own tests: the words of the opcode table, the checks of well-formedness, at most two steps of each command
and of the bus, with the results of spec/95_test_vectors.md, and for each statement with hypotheses a witness that meets
them. -/

namespace Sys2Proof.Tests

open Sys2Proof.Machine Sys2Proof.Spec

/-! ### Helpers -/

/-- The next state of an answer, or the reset state. -/
def after : Result → State
  | .next s => s
  | .fault _ => State.reset
  | .refused _ => State.reset

def bytes (l : List Nat) : List Byte := l.map (BitVec.ofNat 8)

/-- The buffer with the bytes `l` written from offset `a`. -/
def loaded (a : Nat) (l : List Nat) : Memory := Memory.writeAll [] a (bytes l)

/-- Operand values `OPA`, `OPB`, `SRC`, `DST`, `LEN`. -/
def operands (a b s d l : Nat) : Operands :=
  ⟨BitVec.ofNat 32 a, BitVec.ofNat 32 b, BitVec.ofNat 32 s, BitVec.ofNat 32 d, BitVec.ofNat 32 l⟩

/-- The reset state with operands latched and bytes in the buffer. -/
def latched (o : Operands) (m : Memory) : State := { State.reset with latch := o, cwb := m }

/-- The reset state with one access to come. -/
def facing (a : Access) : State := { State.reset with script := [.access a false] }

/-- A state in which `GF_MUL` is pending. -/
def busyState : State := State.reset.accept .gfMul

def writeTo (off w : Nat) : Access := .write (BitVec.ofNat 16 off) .word (BitVec.ofNat 32 w)

def read32 (off : Nat) : Access := .read (BitVec.ofNat 16 off) .word

def read8 (a : Nat) : Access := .read (BitVec.ofNat 16 a) .byte

/-- The `STATUS` word after a step of the reset state in which the host makes the access. -/
def statusAfter (s : State) (a : Access) : Word := (after (busAccess a s)).status.word

/-- The data of a read. -/
def dataOf (s : State) (a : Access) : Option Word := (after (busAccess a s)).resp

/-- The 16 data codewords of vector RE-1. -/
def helloData : List Nat :=
  [0x20, 0x5B, 0x0B, 0x78, 0xD1, 0x72, 0xDC, 0x4D, 0x43, 0x40, 0xEC, 0x11, 0xEC, 0x11, 0xEC, 0x11]

/-- The 10 ECC codewords of vector RE-1. -/
def helloEcc : List Nat := [0xC4, 0x23, 0x27, 0x77, 0xEB, 0xD7, 0xE7, 0xE2, 0x5D, 0x17]

/-! ### Encodings, written from R101 and R102 -/

theorem test_decode_gfMul : decode 0b00000000000000000000000000000001 = .command .gfMul := by decide
theorem test_decode_rsGenpoly : decode 0b00000000000000000000000000000010 = .command .rsGenpoly := by decide
theorem test_decode_rsEncode : decode 0b00000000000000000000000000000011 = .command .rsEncode := by decide
theorem test_decode_ilv : decode 0b00000000000000000000000000000100 = .command .ilv := by decide
theorem test_decode_mtxBuild : decode 0b00000000000000000000000000000101 = .command .mtxBuild := by decide
theorem test_decode_zzPlace : decode 0b00000000000000000000000000000110 = .command .zzPlace := by decide

/-- R105: `0x00000000`, an unassigned opcode, and an assigned opcode under a reserved bit are illegal. -/
theorem test_decode_rejects :
    decode 0x00000000 = .illegal ∧ decode 0x00000007 = .illegal ∧ decode 0x00000101 = .illegal ∧
      decode 0x80000001 = .illegal := by decide

theorem test_decodeTableWord :
    decodeTableWord 32 1 = some .gfMul ∧ decodeTableWord 32 6 = some .zzPlace ∧ decodeTableWord 32 7 = none ∧
      decodeTableWord 8 0xF04 = some .ilv ∧ decodeTableWord 40 0x100000001 = none := by decide

/-! ### Well-formedness (R78): one ill-formed access for each check -/

theorem test_wf_refuses_byte_below_0x100 : Access.wf (.read 0x0010 .byte) = false := by decide
theorem test_wf_refuses_half_below_0x100 : Access.wf (.read 0x0010 .half) = false := by decide
theorem test_wf_refuses_half_window : Access.wf (.write 0x0400 .half 0) = false := by decide
theorem test_wf_refuses_misaligned_word : Access.wf (.write 0x0011 .word 0) = false := by decide
theorem test_wf_refuses_word_window : Access.wf (.read 0x0100 .word) = false := by decide
theorem test_wf_accepts_edges :
    Access.wf (.read 0x00FC .word) = true ∧ Access.wf (.read 0x0100 .byte) = true ∧
      Access.wf (.read 0xFFFF .byte) = true := by decide
theorem test_instr_wf : Instr.wf .zzPlace = true := by decide

/-! ### `GF_MUL` -/

/-- GF-4: `0x02 · 0x80` reduces by `0x11D`. -/
theorem test_gfMul_reduces : (after (exec .gfMul (latched (operands 0x02 0x80 0 0 0) []))).result = 0x1D := by decide

/-- GF-12: `0x8E · 0x8E` reads the largest index. -/
theorem test_gfMul_largest_index :
    (after (exec .gfMul (latched (operands 0x8E 0x8E 0 0 0) []))).result = 0x47 := by decide

/-! ### `RS_GENPOLY` -/

/-- GP-5, from a full `GEN`: the entries above the degree are zero. -/
theorem test_rsGenpoly_degree_5 :
    (after (exec .rsGenpoly { latched (operands 5 0 0 0 0) [] with gen := Vector.replicate 31 0xFF })).gen.toList =
      bytes [0x01, 0x1F, 0xC6, 0x3F, 0x93, 0x74] ++ List.replicate 25 0 := by decide +kernel

/-- GP-9: degree 31 is `BAD_DEGREE`. -/
theorem test_rsGenpoly_degree_31 :
    exec .rsGenpoly (latched (operands 31 0 0 0 0) []) =
      .next (failed (latched (operands 31 0 0 0 0) []) .badDegree) := by rfl

/-! ### `RS_ENCODE` -/

/-- RE-11: overlapping regions give the ECC of disjoint ones. -/
theorem test_rsEncode_overlap :
    (after (exec .rsEncode (latched (operands 5 0 0 2 4) (loaded 0 [0x40, 0x11, 0x20, 0xEC])))).cwb =
      loaded 0 [0x40, 0x11, 0xB0, 0x3E, 0x96, 0x76, 0xF3] := by decide +kernel

/-- RE-9: `src = 1020`, `len = 5` passes offset 1023; `STATUS` then reads `0x00000406` (ER-6). -/
theorem test_rsEncode_bad_range :
    (after (exec .rsEncode (latched (operands 10 0 1020 0 5) []))).status.word = 0x406 := by decide +kernel

/-! ### `ILV` -/

/-- IL-1: one block, the data followed by its ECC. -/
theorem test_ilv_version_1 :
    (after (exec .ilv (latched (operands 1 0 0 0x20 0) (loaded 0 helloData)))).cwb =
      loaded 0 helloData ++ loaded 0x20 (helloData ++ helloEcc) := by decide +kernel

/-- IL-5: in version 8, positions 152 and 153 hold the last bytes of the two longer blocks. -/
theorem test_ilv_longer_blocks :
    (roundRobin (sliceBlocks (bytes (List.range 154)) 8) 39).drop 148 = bytes [0x25, 0x4B, 0x71, 0x98, 0x72, 0x99] := by
  decide +kernel

/-! ### `MTX_BUILD` -/

/-- How spec/95_test_vectors.md draws a cell. -/
def cellChar (x : Cell) : Char :=
  if x.rsv then (if x.set then (if x.val then '#' else '.') else 'f')
  else (if x.set then (if x.val then '1' else '0') else '-')

/-- Rows `rows` of a symbol of size `s`, as spec/95_test_vectors.md draws them. -/
def picture (m : Grid) (s : Nat) (rows : List Nat) : List String :=
  rows.map fun r => String.ofList ((List.range s).map fun c => cellChar (m.cell r c))

/-- MB-1: `VERSION` and seven rows of the matrix of version 1. -/
theorem test_mtxBuild_version_1 :
    let t := after (exec .mtxBuild (latched (operands 1 0 0 0 0) []))
    t.version = 0x1501 ∧
      picture t.mtx 21 [0, 4, 6, 8, 9, 13, 20] =
        ["#######.f----.#######", "#.###.#.f----.#.###.#", "#######.#.#.#.#######", "ffffff#ff----ffffffff",
         "------.--------------", "........#------------", "#######.f------------"] := by decide +kernel

/-- MB-2: the version area, an alignment pattern on the timing row and the dark module of version 7. -/
theorem test_mtxBuild_version_7 :
    picture (builtMatrix 7) 45 [2, 4, 6, 36, 37] =
      ["#.###.#.f-------------------------.#..#.###.#", "#.###.#.f-----------#####---------###.#.###.#",
       "#######.#.#.#.#.#.#.#.#.#.#.#.#.#.#.#.#######", "#..##.#-------------#####-----------#####----",
       "........#-----------#...#-----------#...#----"] := by decide +kernel

/-! ### `ZZ_PLACE` -/

/-- The state before the last command of program P3. -/
def beforePlacing : State :=
  { latched (operands 1 0 0x20 0x20 26) (loaded 0x20 (helloData ++ helloEcc)) with
    mtx := builtMatrix 1, version := versionWord 1 }

/-- ZZ-1: `PLACED` and four rows of the placed matrix. -/
theorem test_zzPlace_version_1 :
    let t := after (exec .zzPlace beforePlacing)
    t.placed = 0x00D000D0 ∧
      picture t.mtx 21 [0, 8, 9, 20] =
        ["#######.f0000.#######", "ffffff#ff1100ffffffff", "001011.11100010111011", "#######.f111110110100"] := by
  decide +kernel

/-- ZZ-6: with no matrix, `NO_MATRIX` comes before the range check. -/
theorem test_zzPlace_no_matrix :
    (after (exec .zzPlace (latched (operands 0 0 1023 0 2047) []))).status.word = 0x506 := by decide +kernel

/-! ### The bus, the issue of a command, and a step -/

/-- ER-1, ER-3, ER-5 and ER-9: the `STATUS` word after a `CMD` write to the reset block. -/
theorem test_cmd_write_status :
    statusAfter State.reset (writeTo 0x0C 0) = 0x106 ∧ statusAfter State.reset (writeTo 0x0C 0x101) = 0x106 ∧
      statusAfter State.reset (writeTo 0x0C 2) = 0x306 ∧ statusAfter State.reset (writeTo 0x0C 1) = 0x001 := by
  decide +kernel

/-- ER-10 and ER-11: a dropped command sets `OVR`; `DONE` is cleared by writing 1 and `ERRCODE` kept. -/
theorem test_status_write :
    statusAfter busyState (writeTo 0x0C 1) = 0x009 ∧
      statusAfter (State.reset.raiseError .noMatrix) (writeTo 0x08 2) = 0x504 := by decide +kernel

/-- P4: only the bits 7:0 of a write to `OPA` are kept; ER-12: a byte read below `0x100` is a bus error. -/
theorem test_operand_write_and_bus_error :
    (after (busAccess (writeTo 0x10 0x1FF) State.reset)).ops.opa = 0xFF ∧
      busAccess (read8 0x0010) State.reset = .fault (.busError 0x0010) := ⟨by decide, by rfl⟩

/-- The tables through their windows, and the matrix cell `(13, 8)` of MB-1. -/
theorem test_window_reads :
    dataOf State.reset (read8 0x09FC) = some 0x47 ∧ dataOf State.reset (read8 0x09FF) = some 0x02 ∧
      dataOf State.reset (read8 0x028E) = some 0xFE ∧ dataOf State.reset (read32 0x000) = some 0x47460100 ∧
      dataOf { State.reset with mtx := builtMatrix 1 } (read8 0x1389) = some 0x07 := by decide +kernel

/-- R263: a read of an unwritten `CWB` byte faults; P5: the soft reset keeps a written one and clears the rest. -/
theorem test_cwb_and_soft_reset :
    busAccess (read8 0x0401) State.reset = .fault (.unwrittenCwb 1) ∧
      busAccess (writeTo 0x04 3) { State.reset with cwb := [(0x20, 0x55)], ie := true, version := 0x2D07 } =
        .next { State.reset with cwb := [(0x20, 0x55)] } := ⟨by rfl, by rfl⟩

/-- The first step after reset issues and performs a row's command: `GF_MUL` completes, `MTX_BUILD` of version 0 is refused. -/
theorem test_withFetchWord_runs_the_row :
    step (State.reset.withFetchWord 32 1) = exec .gfMul (State.reset.accept .gfMul) ∧
      (after (step (State.reset.withFetchWord 32 1))).status.word = 0x002 ∧
      (after (step (State.reset.withFetchWord 32 5))).status.word = 0x206 := ⟨by rfl, by decide +kernel, by decide +kernel⟩

/-! ### Witnesses

For each statement with hypotheses, concrete states and operands that meet all of them together; where a statement has clauses,
one for each clause, at the bounds of its range. -/

/-- The reset state with a `CMD` write to come; `c` says whether the completion follows it. -/
def issuing (w : Nat) (c : Bool) : State := { State.reset with script := [.access (writeTo 0x0C w) c] }

/-- A state in which `i` is pending on the latched operands `o`. -/
def running (i : Instr) (o : Operands) : State := { State.reset with ops := o }.accept i

/-- The buffer with its first and its last byte written. -/
def edges : Memory := [(0, 0x11), (1023, 0x22)]

/-- A state of version `v` with its matrix built. -/
def built (v : Nat) : State := { State.reset with mtx := builtMatrix v, version := versionWord v }

/-- Words at the bounds of the illegal ones (R105). -/
theorem witness_IllegalWordEndsAtOnceWithBadCmd : ∀ w ∈ [0, 7, 0xFF, 0x100, 0x80000001, 0xFFFFFFFF],
    (issuing w false).script = [.access (.write 0x000C .word (BitVec.ofNat 32 w)) false] ∧
      (issuing w false).status.busy = false ∧ (issuing w false).pending = none ∧
        decode (BitVec.ofNat 32 w) = .illegal := by decide

/-- The bounds of the tables, and factors that are zero and not. -/
theorem witness_of_the_tables :
    ((0 : Byte) ≠ 1 ∧ (0 : Nat) ≤ 254 ∧ 254 ≤ 254 ∧ 255 ≤ 255 ∧ 511 ≤ 511 ∧ EXP 254 = EXP 254) ∧
      (EXP 254 = 0x8E ∧ (0x8E : Byte) ≠ 0 ∧ LOG 0x8E = 254) := by decide

/-- `n = 1` and `i = 0`, and the largest degree and its last root: bounds of GenpolyHasItsRoots and
RsCodewordVanishesAtTheRoots. -/
theorem witness_of_the_roots : (1 ≤ 1 ∧ 0 < 1) ∧ 1 ≤ 30 ∧ 29 < 30 := by decide

/-- Legal degrees 1 and 30, illegal degrees 0, 31 and 255. -/
theorem witness_RsGenpolyCompletes :
    (∀ n ∈ [1, 30], n = (latched (operands n 0 0 0 0) []).latch.opa.toNat % 256 ∧ 1 ≤ n ∧ n ≤ 30) ∧
      ∀ n ∈ [0, 31, 255], n = (latched (operands n 0 0 0 0) []).latch.opa.toNat % 256 ∧ ¬(1 ≤ n ∧ n ≤ 30) := by
  decide

/-- Both regions end at offset 1023: `n = 30` at 994, and two bytes at 1022. -/
theorem witness_RsEncodeCompletes :
    let s := latched (operands 30 0 1022 994 2) (loaded 1022 [0x20, 0x5B])
    30 = s.latch.opa.toNat % 256 ∧ 1022 = s.latch.src.toNat % 1024 ∧ 994 = s.latch.dst.toNat % 1024 ∧
      2 = s.latch.len.toNat % 2048 ∧ 1022 + 2 ≤ 1024 ∧ 994 + 30 ≤ 1024 ∧ (bytes [0x20, 0x5B]).length = 2 ∧
        ∀ k < 2, s.cwb.read (1022 + k) = (bytes [0x20, 0x5B])[k]? := by decide

/-- Empty data, the other bound of `len`. -/
theorem witness_RsEncodeCompletes_empty :
    let s := latched (operands 1 0 1023 1023 0) []
    1 = s.latch.opa.toNat % 256 ∧ 1023 = s.latch.src.toNat % 1024 ∧ 1023 = s.latch.dst.toNat % 1024 ∧
      0 = s.latch.len.toNat % 2048 ∧ 1023 + 0 ≤ 1024 ∧ 1023 + 1 ≤ 1024 := by decide

/-- Two encodings of one byte from and to other offsets. -/
def encodeHere : State := latched (operands 2 0 0 10 1) (loaded 0 [0x40])
def encodeThere : State := { latched (operands 2 0 500 501 1) (loaded 500 [0x40]) with ie := true }

theorem witness_RsEncodeIsPure :
    encodeHere.latch.opa.toNat % 256 = encodeThere.latch.opa.toNat % 256 ∧
    encodeHere.latch.len.toNat % 2048 = encodeThere.latch.len.toNat % 2048 ∧
    (∀ k < encodeHere.latch.len.toNat % 2048,
      encodeHere.cwb.read (encodeHere.latch.src.toNat % 1024 + k) =
        encodeThere.cwb.read (encodeThere.latch.src.toNat % 1024 + k)) ∧
    exec .rsEncode encodeHere = .next (after (exec .rsEncode encodeHere)) ∧
    exec .rsEncode encodeThere = .next (after (exec .rsEncode encodeThere)) ∧
    (after (exec .rsEncode encodeHere)).status.errcode = none ∧
    (after (exec .rsEncode encodeThere)).status.errcode = none :=
  ⟨by decide, by decide, by decide, by rfl, by rfl, by decide +kernel, by decide +kernel⟩

theorem witness_RsRemainderIsLinear : (bytes [1, 2, 3]).length = (bytes [4, 5, 6]).length := by decide

/-- Version 1 with both regions at the end of the buffer, one over the other; and the data of vector RE-1. -/
theorem witness_IlvCompletes :
    let s := latched (operands 1 0 1008 998 0) (loaded 1008 helloData)
    1 = s.latch.opa.toNat % 256 ∧ 1008 = s.latch.src.toNat % 1024 ∧ 998 = s.latch.dst.toNat % 1024 ∧
      1008 + dataCodewords 1 ≤ 1024 ∧ 998 + totalCodewords 1 ≤ 1024 ∧ (bytes helloData).length = dataCodewords 1 ∧
        ∀ k < dataCodewords 1, s.cwb.read (1008 + k) = (bytes helloData)[k]? := by decide +kernel

/-- The 334 data codewords of version 13, all the pad byte `0xEC`. -/
def padData : List Byte := List.replicate 334 0xEC

/-- Version 13, whose output ends at offset 1023 when it starts at 492. -/
theorem witness_IlvCompletes_13 :
    let s := latched (operands 13 0 0 492 0) (Memory.writeAll [] 0 padData)
    13 = s.latch.opa.toNat % 256 ∧ 0 = s.latch.src.toNat % 1024 ∧ 492 = s.latch.dst.toNat % 1024 ∧
      0 + dataCodewords 13 ≤ 1024 ∧ 492 + totalCodewords 13 = 1024 ∧ padData.length = dataCodewords 13 ∧
        ∀ k < dataCodewords 13, s.cwb.read (0 + k) = padData[k]? := by
  have hl : padData.length = 334 := List.length_replicate
  refine ⟨by decide, by decide, by decide, by decide, by decide, hl, fun k hk => ?_⟩
  have hk : k < 334 := hk
  rw [latched, Memory.read_writeAll _ _ _ _ (by rw [hl]; decide), if_pos (by omega), Nat.zero_add, Nat.sub_zero]

/-- The longer blocks of version 8: `j = 3` is the last block, `i = 38` its last data byte, `i = 21` its last ECC byte. -/
theorem witness_InterleaverPositions :
    (List.replicate 154 (0 : Byte)).length = dataCodewords 8 ∧
      (3 < blockCount 8 ∧ 38 < blockLength 8 3 ∧ blockLength 8 0 = 38 ∧ 21 < (blockTable 8).ecc) ∧
        241 < totalCodewords 8 := by decide +kernel

/-- Legal versions 1 and 13, illegal versions 0, 14 and 255. -/
theorem witness_MtxBuildCompletes :
    (∀ v ∈ [1, 13], v = (latched (operands v 0 0 0 0) []).latch.opa.toNat % 256 ∧ 1 ≤ v ∧ v ≤ 13) ∧
      ∀ v ∈ [0, 14, 255], v = (latched (operands v 0 0 0 0) []).latch.opa.toNat % 256 ∧ ¬(1 ≤ v ∧ v ≤ 13) := by
  decide

/-- The bounds of the statements about a version alone. -/
theorem witness_of_the_versions : (1 ≤ 1 ∧ 1 ≤ 13) ∧ (1 ≤ 13 ∧ 13 ≤ 13) ∧ 13 < 64 := by decide

/-- Version 1 with the 26 codewords of vector ZZ-1. -/
theorem witness_ZzPlaceCompletes :
    beforePlacing.version = versionWord 1 ∧ 0x20 = beforePlacing.latch.src.toNat % 1024 ∧
      26 = beforePlacing.latch.len.toNat % 2048 ∧ 0x20 + 26 ≤ 1024 ∧ (bytes (helloData ++ helloEcc)).length = 26 ∧
        ∀ k < 26, beforePlacing.cwb.read (0x20 + k) = (bytes (helloData ++ helloEcc))[k]? := by decide +kernel

/-- Version 13, no codewords, from the end of the buffer. -/
theorem witness_ZzPlaceCompletes_empty :
    let s := { built 13 with latch := operands 0 0 1023 0 0 }
    s.version = versionWord 13 ∧ 1023 = s.latch.src.toNat % 1024 ∧ 0 = s.latch.len.toNat % 2048 ∧ 1023 + 0 ≤ 1024 ∧
      s.cwb = [] := ⟨rfl, by decide, by decide, by decide, rfl⟩

/-- A placement, and a reserved cell before it. -/
theorem witness_ZzPlaceKeepsReservedCells :
    exec .zzPlace beforePlacing = .next (after (exec .zzPlace beforePlacing)) ∧
      (beforePlacing.mtx.cell 0 0).rsv = true := ⟨by rfl, by decide +kernel⟩

/-- Every error of R233 at the first operand that fails, and operands at the last one that passes. -/
theorem witness_FirstFailingCheckIsReported :
    (firstFailingCheck .rsGenpoly (operands 31 0 0 0 0) 0 = some .badDegree ∧
      firstFailingCheck .rsEncode (operands 0 0 1023 0 2047) 0 = some .badDegree ∧
      firstFailingCheck .rsEncode (operands 1 0 1023 0 2) 0 = some .badRange ∧
      firstFailingCheck .rsEncode (operands 2 0 0 1023 0) 0 = some .badRange ∧
      firstFailingCheck .ilv (operands 14 0 0 0 0) 0 = some .badVersion ∧
      firstFailingCheck .ilv (operands 1 0 1009 0 0) 0 = some .badRange ∧
      firstFailingCheck .ilv (operands 1 0 0 999 0) 0 = some .badRange ∧
      firstFailingCheck .mtxBuild (operands 0 0 0 0 0) 0 = some .badVersion ∧
      firstFailingCheck .zzPlace (operands 0 0 1023 0 2047) 0 = some .noMatrix ∧
      firstFailingCheck .zzPlace (operands 0 0 1 0 1024) 1 = some .badRange) ∧
    (firstFailingCheck .rsEncode (operands 1 0 1023 1023 1) 0 = none ∧
      firstFailingCheck .ilv (operands 1 0 1008 998 0) 0 = none ∧
      firstFailingCheck .zzPlace (operands 0 0 0 0 1024) 1 = none) ∧
    exec .gfMul State.reset = .next (after (exec .gfMul State.reset)) :=
  ⟨by decide, by decide, by rfl⟩

/-- A dropped `CMD` write; an illegal one, one that fails its check, and one that passes it. -/
theorem witness_CmdWriteIsAcceptedOrDropped :
    (∀ w ∈ [0, 1, 2],
      (issuing w false).script = [.access (.write 0x000C .word (BitVec.ofNat 32 w)) false] ∧
        (issuing w false).status.busy = false ∧ (issuing w false).pending = none) ∧
    { busyState with script := (issuing 1 false).script }.status.busy = true ∧
    decode 0 = .illegal ∧
    (decode 2 = .command .rsGenpoly ∧ firstFailingCheck .rsGenpoly State.reset.ops 0 = some .badDegree) ∧
    (decode 1 = .command .gfMul ∧ firstFailingCheck .gfMul State.reset.ops 0 = none) := by decide +kernel

theorem witness_StepRunsTheDecodedCommand : ∀ w ∈ [1, 6],
    (issuing w true).script = [.access (.write 0x000C .word (BitVec.ofNat 32 w)) true] ∧
      (issuing w true).status.busy = false ∧
        (decode (BitVec.ofNat 32 w) = .command .gfMul ∨ decode (BitVec.ofNat 32 w) = .command .zzPlace) := by decide

/-- The engine's turn and the empty schedule, with a command pending and none; and accesses that leave one pending or none. -/
theorem witness_CompletionStepPerformsThePendingCommand :
    busyState.pending = some .gfMul ∧ State.reset.pending = none ∧ State.reset.script = [] ∧
    { busyState with script := [.engine] }.script = [.engine] ∧
    step (issuing 1 false) = .next (after (step (issuing 1 false))) ∧
    (after (step (issuing 1 false))).pending = some .gfMul ∧
    step (issuing 0 false) = .next (after (step (issuing 0 false))) ∧
    (after (step (issuing 0 false))).pending = none :=
  ⟨rfl, rfl, rfl, rfl, by rfl, by rfl, by rfl, by rfl⟩

theorem witness_CompletionSetsDone : exec .gfMul busyState = .next (after (exec .gfMul busyState)) := by rfl

/-- Every kind of access that may come while a command runs. -/
theorem witness_LatencyDoesNotChangeTheResult :
    busyState.status.busy = true ∧ busyState.pending = some .gfMul ∧
    ∀ a ∈ [read32 0x08, read32 0x24, writeTo 0x0C 2, writeTo 0x10 7, writeTo 0x04 1, read8 0x0400,
        .write 0x0400 .byte 9, writeTo 0x08 0xF],
      a.wf = true ∧ a.softResets = false := by decide +kernel

/-- Accesses on both sides of the bounds of R78. -/
theorem witness_OnlyAdmittedAccessesComplete :
    (∀ a ∈ [read32 0x00FC, read8 0x0100, read8 0xFFFF],
      (facing a).script = [.access a false] ∧
        ((a.size = .word ∧ a.addr.toNat < 0x100 ∧ a.addr.toNat % 4 = 0) ∨ (a.size = .byte ∧ 0x100 ≤ a.addr.toNat))) ∧
    ∀ a ∈ [read32 0x0100, read8 0x00FF, read32 0x00FE, .read 0x0100 .half, .write 0x00FC .half 0],
      (facing a).script = [.access a false] ∧
        ¬((a.size = .word ∧ a.addr.toNat < 0x100 ∧ a.addr.toNat % 4 = 0) ∨ (a.size = .byte ∧ 0x100 ≤ a.addr.toNat)) := by
  decide

theorem witness_ReadsHaveNoSideEffect :
    (facing (read32 0x24)).script = [.access (.read 0x24 .word) false] ∧
      step (facing (read32 0x24)) = .next (after (step (facing (read32 0x24)))) := ⟨rfl, by rfl⟩

/-- One read for each register, and the first and last reserved offset. -/
theorem witness_RegisterReads :
    ∀ a ∈ [0x000, 0x004, 0x008, 0x00C, 0x010, 0x014, 0x018, 0x01C, 0x020, 0x024, 0x028, 0x02C, 0x030, 0x0FC],
      (facing (read32 a)).script = [.access (.read (BitVec.ofNat 16 a) .word) false] ∧
        (facing (read32 a)).status.busy = false ∧ (BitVec.ofNat 16 a).toNat = a ∧ a % 4 = 0 := by decide

/-- The first and the last byte of each window and of each reserved range, in an idle block with the first and the last
byte of `CWB` written; and the constant windows in a busy one. -/
theorem witness_WindowReads :
    (∀ a ∈ [0x0100 + 0, 0x0100 + 30, 0x0200 + 0, 0x0200 + 255, 0x0400 + 0, 0x0400 + 1, 0x0400 + 1022, 0x0400 + 1023,
        0x0800 + 0, 0x0800 + 511, 0x1000 + 69 * 0 + 0, 0x1000 + 69 * 0 + 68, 0x1000 + 69 * 68 + 0,
        0x1000 + 69 * 68 + 68, 0x011F, 0x01FF, 0x0300, 0x03FF, 0x0A00, 0x0FFF, 0x2299, 0xFFFF],
      { facing (read8 a) with cwb := edges }.script = [.access (.read (BitVec.ofNat 16 a) .byte) false] ∧
        { facing (read8 a) with cwb := edges }.status.busy = false ∧ (BitVec.ofNat 16 a).toNat = a) ∧
    (edges.read 0 = some 0x11 ∧ edges.read 1023 = some 0x22 ∧ edges.read 1 = none ∧ edges.read 1022 = none) ∧
    { busyState with script := (facing (read8 0x0200)).script }.status.busy = true := by decide +kernel

/-- The bounds of the registers and windows whose reads are free while a command runs. -/
theorem witness_BusyReadsAreFreeDraws :
    busyState.status.busy = true ∧
    (∀ a ∈ [0x024, 0x028, 0x02C],
      { busyState with script := (facing (read32 a)).script }.script =
        [.access (.read (BitVec.ofNat 16 a) .word) false]) ∧
    ∀ a ∈ [0x0100, 0x011E, 0x0400, 0x07FF, 0x1000, 0x2298],
      (BitVec.ofNat 16 a).toNat = a ∧
        { busyState with script := (facing (read8 a)).script }.script =
          [.access (.read (BitVec.ofNat 16 a) .byte) false] := by decide +kernel

theorem witness_OperandWritesKeepTheImplementedBits : ∀ a ∈ [0x010, 0x014, 0x018, 0x01C, 0x020],
    (facing (writeTo a 0xFFFFFFFF)).script = [.access (.write (BitVec.ofNat 16 a) .word 0xFFFFFFFF) false] := by decide

theorem witness_StatusReadsAndAcknowledges :
    (facing (writeTo 0x08 0xA)).script = [.access (.write 0x0008 .word 0xA) false] := by decide

/-- The status words of no error and of every error. -/
theorem witness_ErrorCodesAreNumbered :
    ∀ e ∈ [none, some .badCmd, some .badVersion, some .badDegree, some .badRange, some .noMatrix],
      (Status.mk false true false e).errcode = e := by decide

/-- The first and the last byte of `CWB`, in an idle and in a busy block. -/
theorem witness_CwbWrites : ∀ k ∈ [0, 1023],
    let a : Addr := BitVec.ofNat 16 (0x0400 + k)
    (facing (.write a .byte 0x1FF)).script = [.access (.write a .byte 0x1FF) false] ∧ a.toNat = 0x0400 + k ∧
      k ≤ 1023 ∧ (facing (.write a .byte 0x1FF)).status.busy = false ∧
        { busyState with script := (facing (.write a .byte 0x1FF)).script }.status.busy = true := by decide +kernel

theorem witness_ReadOnlyAndReservedWritesAreIgnored :
    (∀ a ∈ [0x000, 0x024, 0x028, 0x02C, 0x030, 0x0FC],
      (facing (writeTo a 0xFF)).script = [.access (.write (BitVec.ofNat 16 a) .word 0xFF) false] ∧
        (BitVec.ofNat 16 a).toNat = a) ∧
    ∀ a ∈ [0x0100, 0x03FF, 0x0800, 0xFFFF],
      (facing (.write (BitVec.ofNat 16 a) .byte 0xFF)).script =
        [.access (.write (BitVec.ofNat 16 a) .byte 0xFF) false] ∧ (BitVec.ofNat 16 a).toNat = a := by decide

/-- A write that sets `IE`; a soft reset of an idle block, and one that cancels `RS_ENCODE` and `ILV` with an output that ends
at offset 1023. -/
theorem witness_CtrlWriteResetsOrSetsIe :
    ((1 : Word).getLsbD 1 = false ∧ (3 : Word).getLsbD 1 = true ∧ (2 : Word).getLsbD 1 = true) ∧
    (∀ w ∈ [1, 2, 3], (facing (writeTo 0x04 w)).script = [.access (.write 0x0004 .word (BitVec.ofNat 32 w)) false]) ∧
    (running .rsEncode (operands 30 0 0 994 0)).pending = some .rsEncode ∧
    (running .ilv (operands 13 0 0 492 0)).pending = some .ilv ∧
    (running .ilv (operands 13 0 0 492 0)).latch.dst.toNat % 1024 + totalCodewords 13 = 1024 := by decide +kernel

/-- A busy state has the invariant: `GF_MUL` is pending, and no matrix is built. -/
theorem busyState_inv : busyState.Inv where
  reserved := by unfold State.ReservedBitsZero Operands.reservedZero; decide
  busy := by rfl
  pending := by rintro i h; cases h; exact ⟨rfl, rfl, rfl⟩
  version := .inl rfl
  white r c _ := congrArg Cell.val (Grid.cell_clear r c)
  intact r c := ⟨congrArg Cell.rsv (Grid.cell_clear r c), fun h => by
    rw [show busyState.mtx = Grid.clear from rfl, Grid.cell_clear] at h; cases h⟩
  outside r c _ := Grid.cell_clear r c
  memory := by decide

/-- The invariant and a step, for the statements of what every step keeps. -/
theorem witness_StepKeepsTheInvariant :
    busyState.Inv ∧ step busyState = .next (after (step busyState)) := ⟨busyState_inv, by rfl⟩

theorem witness_StepKeepsBusyMatchesPending :
    (busyState.status.busy = true ↔ busyState.pending ≠ none) ∧ step busyState = .next (after (step busyState)) :=
  ⟨by decide, by rfl⟩

theorem witness_StepKeepsUnsetCellsWhite :
    busyState.UnsetCellsWhite ∧ step busyState = .next (after (step busyState)) := ⟨busyState_inv.white, by rfl⟩

theorem witness_StepKeepsReservedBitsZero :
    (running .gfMul (operands 255 255 1023 1023 2047)).ReservedBitsZero ∧
      step (running .gfMul (operands 255 255 1023 1023 2047)) =
        .next (after (step (running .gfMul (operands 255 255 1023 1023 2047)))) :=
  ⟨by unfold State.ReservedBitsZero Operands.reservedZero; decide, by rfl⟩

theorem witness_StepKeepsTheBufferCanonical :
    encodeHere.cwb.wf ∧ step encodeHere = .next (after (step encodeHere)) := ⟨by decide, by rfl⟩

/-- A built matrix of the largest version. -/
theorem witness_StepKeepsThePatternsIntact :
    (built 13).VersionLegal ∧ (built 13).PatternsIntact ∧ step (built 13) = .next (after (step (built 13))) :=
  ⟨.inr ⟨13, by decide, rfl⟩, fun _ _ => ⟨rfl, fun _ => rfl⟩, by rfl⟩

theorem witness_NoErrorAfterAcceptance :
    { busyState with script := [.engine] }.Inv ∧ { busyState with script := [.engine] }.pending = some .gfMul ∧
      step { busyState with script := [.engine] } = .next (after (step { busyState with script := [.engine] })) :=
  ⟨⟨busyState_inv.reserved, busyState_inv.busy, busyState_inv.pending, busyState_inv.version, busyState_inv.white,
    busyState_inv.intact, busyState_inv.outside, busyState_inv.memory⟩, rfl, by rfl⟩

/-- A step that ends in a bus error and one that reads an unwritten byte. -/
theorem witness_StopsOnlyForTheHostsFaults :
    step (facing (read8 0x00FF)) = .fault (.busError 0x00FF) ∧
      step (facing (read8 0x07FF)) = .fault (.unwrittenCwb 1023) := ⟨by rfl, by rfl⟩

/-- Version 1, a degree of 1 and two codewords, of which the second is not written. -/
def halfLoaded : State := { built 1 with latch := operands 1 0 0 0 2, cwb := edges }

/-- One state for each of the three commands with an input. -/
theorem witness_UnwrittenInputFaults :
    0 = halfLoaded.latch.src.toNat % 1024 ∧
    (∀ i ∈ [.rsEncode, .ilv, .zzPlace], firstFailingCheck i halfLoaded.latch (halfLoaded.version.toNat % 256) = none) ∧
    2 = halfLoaded.latch.len.toNat % 2048 ∧ 16 = dataCodewords (halfLoaded.latch.opa.toNat % 256) ∧
    (0 ≤ 1 ∧ 1 < 0 + 2 ∧ 1 < 0 + 16) ∧ halfLoaded.cwb.read 1 = none ∧
    ∀ x, 0 ≤ x → x < 1 → halfLoaded.cwb.read x ≠ none := by
  refine ⟨by decide, by decide, by decide, by decide, by decide, by decide, fun x _ h => ?_⟩
  obtain rfl : x = 0 := by omega
  decide

/-- The first and the last cell that the walk visits in version 1, and the cells on both sides of column 6. -/
theorem witness_WalkListsEveryFreeCellOnce :
    (∀ p ∈ [(20, 20), (0, 7), (0, 5), (0, 0), (20, 0)], p.1 < symbolSize 1 ∧ p.2 < symbolSize 1 ∧ p.2 ≠ 6) ∧
      visitPosition 21 20 20 = 0 ∧ visitPosition 21 20 0 = 419 := by decide

/-- A step that is neither a build nor a reset, from a built matrix with a reserved cell; and a build that fails its check. -/
theorem witness_OnlyABuildOrAResetChangesThePatterns :
    (step beforePlacing = .next (after (step beforePlacing)) ∧ ¬softResetsNext beforePlacing ∧
      ¬(buildsNext beforePlacing ∧ (after (step beforePlacing)).status.errcode = none) ∧
      (beforePlacing.mtx.cell 0 0).rsv = true) ∧
    step (issuing 5 true) = .next (after (step (issuing 5 true))) ∧ ¬softResetsNext (issuing 5 true) ∧
      ¬(buildsNext (issuing 5 true) ∧ (after (step (issuing 5 true))).status.errcode = none) := by
  refine ⟨⟨rfl, ?_, ?_, by decide +kernel⟩, rfl, ?_, fun h => absurd h.2 (by decide +kernel)⟩
  · rintro ⟨a, c, ts, h, -⟩; cases h
  · rintro ⟨⟨-, h | ⟨-, ts, h⟩⟩, -⟩ <;> cases h
  · rintro ⟨a, c, ts, h, hr⟩; cases h; revert hr; decide

end Sys2Proof.Tests
end

/-! SUPPORT. Facts about the decoder, the address map, the bus and the words of registers that the proofs of the state's
statements use. -/
section

namespace Sys2Proof

/-- A word that decodes to a command is that command's word (R103). -/
theorem eq_encode_of_decode {w : Word} {i : Instr} (h : decode w = .command i) : w = encode i := by
  have fields : ∀ b : Byte, rsvdField w = 0 → opcodeField w = b → w = (0 : BitVec 24) ++ b := by
    rintro _ hr rfl
    rw [← hr]
    exact (BitVec.extractLsb'_append_extractLsb' (w := 24) (len := 8)).symm
  unfold decode at h
  split at h
  · cases h
  · next hr =>
    have hr := not_not.1 hr
    repeat' split at h
    all_goals cases h
    all_goals exact fields _ hr ‹_›

end Sys2Proof

namespace Sys2Proof.Machine

/-! ### Words -/

/-- The number of a concatenation. -/
theorem toNat_append_eq_add {m n : Nat} (x : BitVec m) (y : BitVec n) :
    (x ++ y).toNat = 2 ^ n * x.toNat + y.toNat := by
  rw [BitVec.toNat_append, ← Nat.shiftLeft_add_eq_or_of_lt y.isLt, Nat.shiftLeft_eq, Nat.mul_comm]

/-- The implemented bits of a written operand, as a number (R38). -/
theorem keep8_toNat (w : Word) : (keep8 w).toNat = w.toNat % 2 ^ 8 := by simp [keep8]; omega

theorem keep10_toNat (w : Word) : (keep10 w).toNat = w.toNat % 2 ^ 10 := by simp [keep10]; omega

theorem keep11_toNat (w : Word) : (keep11 w).toNat = w.toNat % 2 ^ 11 := by simp [keep11]; omega

theorem keep8_eq (w : Word) : keep8 w = BitVec.ofNat 32 (w.toNat % 2 ^ 8) :=
  BitVec.eq_of_toNat_eq (by rw [keep8_toNat, BitVec.toNat_ofNat]; omega)

theorem keep10_eq (w : Word) : keep10 w = BitVec.ofNat 32 (w.toNat % 2 ^ 10) :=
  BitVec.eq_of_toNat_eq (by rw [keep10_toNat, BitVec.toNat_ofNat]; omega)

theorem keep11_eq (w : Word) : keep11 w = BitVec.ofNat 32 (w.toNat % 2 ^ 11) :=
  BitVec.eq_of_toNat_eq (by rw [keep11_toNat, BitVec.toNat_ofNat]; omega)

/-- `CTRL` reads as its one stored bit (R35). -/
theorem State.ctrlWord_eq (s : State) : s.ctrlWord = if s.ie then 1 else 0 := by
  cases h : s.ie <;> simp only [State.ctrlWord, h] <;> rfl

/-- The word of `STATUS` is the sum of its fields, each at its bit (R36). -/
theorem Status.word_toNat (st : Status) :
    st.word.toNat =
      256 * st.errField.toNat + 8 * st.ovr.toNat + 4 * st.err.toNat + 2 * st.done.toNat + st.busy.toNat := by
  simp only [Status.word, toNat_append_eq_add, BitVec.toNat_ofBool]
  simp
  omega

/-- `ERR` reads as `ERRCODE != 0` (R36). -/
theorem Status.err_eq (st : Status) : st.err = decide (st.errField.toNat ≠ 0) := by
  rw [Bool.eq_iff_iff]
  simp [Status.err, BitVec.toNat_eq]

/-! ### The register map -/

/-- The offset of a register (R33). -/
def Reg.offset : Reg → Nat
  | .id => 0x000
  | .ctrl => 0x004
  | .status => 0x008
  | .cmd => 0x00C
  | .opa => 0x010
  | .opb => 0x014
  | .src => 0x018
  | .dst => 0x01C
  | .len => 0x020
  | .result => 0x024
  | .version => 0x028
  | .placed => 0x02C

/-- A register stands at its own offset and nowhere else. -/
theorem regAt_eq_some_iff {off : Nat} {r : Reg} : regAt off = some r ↔ off = r.offset := by
  constructor
  · intro h
    unfold regAt at h
    split at h <;> cases h <;> rfl
  · rintro rfl
    cases r <;> rfl

theorem Reg.offset_lt (r : Reg) : r.offset < 0x030 := by cases r <;> decide

theorem Reg.offset_aligned (r : Reg) : r.offset % 4 = 0 := by cases r <;> decide

/-- The offsets from `0x030` on are reserved (R33). -/
theorem regAt_reserved {off : Nat} (h : 0x030 ≤ off) : regAt off = none := by
  rw [Option.eq_none_iff_forall_ne_some]
  intro r hr
  have := r.offset_lt
  rw [regAt_eq_some_iff] at hr
  omega

end Sys2Proof.Machine
end

/-! SUPPORT. What a built matrix is made of: every function pattern is placed by `put` and `reserve` inside the symbol, so
a property that these keep holds of the built matrix. The walk lists cells of the symbol only. -/
section

namespace Sys2Proof.Machine

/-! ### Properties that the placement of a function pattern keeps -/

/-- `P` is kept by every `put` and every `reserve` inside a symbol of size `s`. -/
structure KeptInside (s : Nat) (P : Grid → Prop) : Prop where
  put : ∀ m r c b, r < s → c < s → P m → P (m.put r c b)
  reserve : ∀ m r c, r < s → c < s → P m → P (m.reserve r c)

section
variable {s : Nat} {P : Grid → Prop} {m : Grid}

/-- The loop over cells keeps what its body keeps. -/
theorem overCells_keeps {rows cols : List Int} {f : Grid → Int → Int → Grid} (hm : P m)
    (hf : ∀ m, ∀ r ∈ rows, ∀ c ∈ cols, P m → P (f m r c)) : P (overCells rows cols m f) :=
  List.foldlRecOn rows _ hm fun _ h r hr => List.foldlRecOn cols _ h fun m h c hc => hf m r hr c hc h

/-- The guard of R182 clamps a finder to the symbol. -/
theorem placeFinder_keeps (h : KeptInside s P) (R C : Int) (hm : P m) : P (placeFinder s R C m) :=
  overCells_keeps hm fun m r _ c _ hm => by
    split
    · exact h.put _ _ _ _ (by omega) (by omega) hm
    · exact hm

theorem alignOffsets_bounds : ∀ d ∈ alignOffsets, -2 ≤ d ∧ d ≤ 2 := by decide

theorem placeAlignment_keeps (h : KeptInside s P) {R C : Nat} (hR : 2 ≤ R ∧ R + 2 < s) (hC : 2 ≤ C ∧ C + 2 < s)
    (hm : P m) : P (placeAlignment R C m) := by
  unfold placeAlignment
  split
  · exact hm
  · refine overCells_keeps hm fun m r hr c hc hm => ?_
    have := alignOffsets_bounds r hr
    have := alignOffsets_bounds c hc
    exact h.put _ _ _ _ (by omega) (by omega) hm

/-- Every listed coordinate leaves room for an alignment pattern inside the symbol (R184). -/
theorem alignTable_bounds {v : Nat} (hv : legalVersion v) :
    ∀ R ∈ alignTable v, 2 ≤ R ∧ R + 2 < symbolSize v := by
  have all : ∀ v < 14, ∀ R ∈ alignTable v, 2 ≤ R ∧ R + 2 < symbolSize v := by decide
  exact all v (Nat.lt_succ_of_le hv.2)

theorem placeAlignments_keeps {v : Nat} (hv : legalVersion v) (h : KeptInside (symbolSize v) P) (hm : P m) :
    P (placeAlignments v m) :=
  List.foldlRecOn _ _ hm fun _ hm R hR => List.foldlRecOn _ _ hm fun _ hm C hC =>
    placeAlignment_keeps h (alignTable_bounds hv R hR) (alignTable_bounds hv C hC) hm

theorem putUnreserved_keeps (h : KeptInside s P) {r c : Nat} (b : Bool) (hr : r < s) (hc : c < s) (hm : P m) :
    P (putUnreserved m r c b) := by
  unfold putUnreserved
  split
  · exact hm
  · exact h.put _ _ _ _ hr hc hm

theorem placeTiming_keeps (h : KeptInside s P) (hs : 6 < s) (hm : P m) : P (placeTiming s m) := by
  have row := List.foldlRecOn (List.range s) _ hm fun m hm i hi =>
    putUnreserved_keeps h (i % 2 == 0) hs (List.mem_range.1 hi) hm
  exact List.foldlRecOn (List.range s) _ row fun m hm i hi =>
    putUnreserved_keeps h (i % 2 == 0) (List.mem_range.1 hi) hs hm

theorem reserveFormat_keeps (h : KeptInside s P) (hs : 8 < s) (hm : P m) : P (reserveFormat s m) := by
  have both : ∀ m i, i < s → P m → P ((m.reserve 8 i).reserve i 8) := fun m i hi hm =>
    h.reserve _ _ _ hi hs (h.reserve _ _ _ hs hi hm)
  unfold reserveFormat
  refine List.foldlRecOn _ _ (List.foldlRecOn _ _ hm fun m hm i hi => ?_) fun m hm i _ => ?_
  · have := List.mem_range.1 hi
    exact both m i (by omega) hm
  · exact both m (s - 1 - i) (by omega) hm

theorem placeDarkModule_keeps (h : KeptInside s P) (hs : 8 < s) (hm : P m) : P (placeDarkModule s m) :=
  h.put _ _ _ _ (by omega) hs hm

theorem placeVersion_keeps (h : KeptInside s P) (v : Nat) (hs : 8 < s) (hm : P m) : P (placeVersion v s m) := by
  unfold placeVersion
  refine List.foldlRecOn _ _ hm fun m hm i hi => ?_
  have := List.mem_range.1 hi
  have ha : s - 11 + i % 3 < s := by omega
  have hq : i / 3 < s := by omega
  exact h.put _ _ _ _ ha hq (h.put _ _ _ _ hq ha hm)

/-- A property of the cleared matrix that every `put` and `reserve` inside the symbol keeps holds of the built matrix. -/
theorem builtMatrix_of_keptInside {v : Nat} (hv : legalVersion v) (h : KeptInside (symbolSize v) P) (hm : P Grid.clear) :
    P (builtMatrix v) := by
  have hs : 8 < symbolSize v := by unfold symbolSize; omega
  have finders := placeFinder_keeps h ((symbolSize v : Int) - 7) 0
    (placeFinder_keeps h 0 ((symbolSize v : Int) - 7) (placeFinder_keeps h 0 0 hm))
  have patterns := placeTiming_keeps h (by omega) (placeAlignments_keeps hv h finders)
  have dark := placeDarkModule_keeps h hs (reserveFormat_keeps h hs patterns)
  simp only [builtMatrix]
  split
  · exact placeVersion_keeps h v hs dark
  · exact dark

end

/-! ### White cells and clear cells -/

/-- `set = 0 ⇒ val = 0` in every cell of a matrix (R40). -/
def Grid.UnsetWhite (m : Grid) : Prop := ∀ r c, (m.cell r c).set = false → (m.cell r c).val = false

/-- Every cell outside a symbol of size `s` is clear (R41). -/
def Grid.ClearOutside (s : Nat) (m : Grid) : Prop := ∀ r c, s ≤ r ∨ s ≤ c → m.cell r c = Cell.clear

theorem Grid.unsetWhite_clear : Grid.clear.UnsetWhite := fun r c _ => congrArg Cell.val (Grid.cell_clear r c)

theorem Grid.clearOutside_clear (s : Nat) : Grid.clear.ClearOutside s := fun r c _ => Grid.cell_clear r c

/-- An update whose new cells are white or set keeps the unset cells white. -/
theorem Grid.UnsetWhite.update {m : Grid} (h : m.UnsetWhite) (r c : Nat) {f : Cell → Cell}
    (hf : ∀ x : Cell, (x.set = false → x.val = false) → (f x).set = false → (f x).val = false) :
    (m.update r c f).UnsetWhite := by
  intro x y
  rw [Grid.cell_update]
  split
  · exact hf _ (h x y)
  · exact h x y

/-- An update inside the symbol keeps the cells outside clear. -/
theorem Grid.ClearOutside.update {m : Grid} {s r c : Nat} (h : m.ClearOutside s) (hr : r < s) (hc : c < s)
    (f : Cell → Cell) : (m.update r c f).ClearOutside s := by
  intro x y hxy
  rw [Grid.cell_update, if_neg (by omega)]
  exact h x y hxy

theorem keptInside_unsetWhite (s : Nat) : KeptInside s Grid.UnsetWhite where
  put _ r c _ _ _ h := h.update r c fun _ _ hset => nomatch hset
  reserve _ r c _ _ h := h.update r c fun _ hx => hx

theorem keptInside_clearOutside (s : Nat) : KeptInside s (Grid.ClearOutside s) where
  put _ _ _ _ hr hc h := h.update hr hc _
  reserve _ _ _ hr hc h := h.update hr hc _

/-! ### The placer -/

/-- Threading keeps what the colouring of a listed cell keeps. -/
theorem thread_keeps {P : Grid → Prop} (stream : List Byte) (cells : List (Nat × Nat)) (k : Nat) {m : Grid}
    (hcolour : ∀ m, ∀ p ∈ cells, ∀ b, P m → P (m.colour p.1 p.2 b)) (hm : P m) : P (thread stream k cells m) := by
  induction cells generalizing k m with
  | nil => exact hm
  | cons p cells ih =>
    exact ih _ (fun m q hq => hcolour m q (List.mem_cons_of_mem _ hq)) (hcolour m p List.mem_cons_self _ hm)

theorem mem_walkRows {s r : Nat} {up : Bool} (h : r ∈ walkRows s up) : r < s := by
  simp only [walkRows, List.mem_map, List.mem_range] at h
  obtain ⟨t, ht, rfl⟩ := h
  split <;> omega

theorem mem_pairCells {s right : Nat} {up : Bool} (hright : right < s) {p : Nat × Nat}
    (h : p ∈ pairCells s right up) : p.1 < s ∧ p.2 < s := by
  simp only [pairCells, List.mem_flatMap, List.mem_cons, List.not_mem_nil, or_false] at h
  obtain ⟨r, hr, rfl | rfl⟩ := h
  · exact ⟨mem_walkRows hr, hright⟩
  · exact ⟨mem_walkRows hr, Nat.lt_of_le_of_lt (Nat.sub_le _ _) hright⟩

theorem mem_walkPairs {s right fuel : Nat} {up : Bool} (hright : right < s) {p : Nat × Nat}
    (h : p ∈ walkPairs s fuel right up) : p.1 < s ∧ p.2 < s := by
  induction fuel generalizing right up with
  | zero => exact absurd h List.not_mem_nil
  | succ fuel ih =>
    simp only [walkPairs] at h
    split at h
    · exact absurd h List.not_mem_nil
    · have skip : (if right = 6 then 5 else right) < s := by split <;> omega
      rcases List.mem_append.1 h with h | h
      · exact mem_pairCells skip h
      · exact ih (Nat.lt_of_le_of_lt (Nat.sub_le _ _) skip) h

/-- The walk stays inside the symbol (R210). -/
theorem mem_walk {m : Grid} {s : Nat} {p : Nat × Nat} (h : p ∈ walk m s) : p.1 < s ∧ p.2 < s := by
  have hp : p ∈ walkPairs s s (s - 1) true := List.mem_of_mem_filter h
  cases s with
  | zero => exact absurd hp List.not_mem_nil
  | succ s => exact mem_walkPairs (Nat.lt_succ_self s) hp

theorem Grid.UnsetWhite.thread {m : Grid} (h : m.UnsetWhite) (stream : List Byte) (cells : List (Nat × Nat)) (k : Nat) :
    (thread stream k cells m).UnsetWhite :=
  thread_keeps stream cells k (fun _ p _ _ h => h.update p.1 p.2 fun _ _ hset => nomatch hset) h

theorem Grid.ClearOutside.thread_walk {m : Grid} {s : Nat} (h : m.ClearOutside s) (stream : List Byte) :
    (thread stream 0 (walk m s) m).ClearOutside s :=
  thread_keeps stream _ 0 (fun _ _ hp _ h => h.update (mem_walk hp).1 (mem_walk hp).2 _) h

/-- Data placement keeps every reserved cell of the matrix (R212). -/
theorem thread_walk_of_rsv {m : Grid} {r c : Nat} (h : (m.cell r c).rsv = true) (stream : List Byte) (s : Nat) :
    (thread stream 0 (walk m s) m).cell r c = m.cell r c :=
  thread_cell_of_not_mem stream _ 0 m (not_mem_walk_of_rsv h)

end Sys2Proof.Machine
end

/-! SUPPORT. What a command may change, and what a step may change in the registers, the matrix and the flags: the step lemmas
that the statements of the state are assembled from. -/
section

namespace Sys2Proof.Machine

/-! ### The fields of `VERSION` -/

/-- The bytes of `VERSION` after a build, and its reserved bits (R39, R191). -/
theorem versionWord_fields {v : Nat} (hv : legalVersion v) :
    ((versionWord v).extractLsb' 0 8).toNat = v ∧ ((versionWord v).extractLsb' 8 8).toNat = symbolSize v ∧
      (versionWord v).toNat < 2 ^ 16 := by
  have all : ∀ v < 14, ((versionWord v).extractLsb' 0 8).toNat = v ∧
      ((versionWord v).extractLsb' 8 8).toNat = symbolSize v ∧ (versionWord v).toNat < 2 ^ 16 := by decide
  exact all v (Nat.lt_succ_of_le hv.2)

theorem State.ver_of_versionWord {s : State} {v : Nat} (hv : legalVersion v) (h : s.version = versionWord v) :
    s.ver = v := by
  rw [State.ver, h]; exact (versionWord_fields hv).1

theorem State.size_of_versionWord {s : State} {v : Nat} (hv : legalVersion v) (h : s.version = versionWord v) :
    s.size = symbolSize v := by
  rw [State.size, h]; exact (versionWord_fields hv).2.1

theorem State.ver_of_version_zero {s : State} (h : s.version = 0) : s.ver = 0 := by rw [State.ver, h]; rfl

/-- The check of `MTX_BUILD` passes only legal versions (R233). -/
theorem legalVersion_of_check {s : State} (h : check .mtxBuild s = none) : legalVersion s.latch.symbolVersion := by
  by_contra hn
  simp only [check, checkMtxBuild, firstError_cons, decide_eq_false hn, Bool.false_eq_true, if_false] at h
  cases h

/-! ### What a command leaves -/

/-- A command that ends leaves the block idle. -/
theorem exec_next_idle {i : Instr} {s t : State} (h : exec i s = .next t) :
    t.status.busy = false ∧ t.pending = none := by
  rcases exec_cases i s with ⟨e, -, h2⟩ | ⟨u, -, -, h2⟩ | ⟨a, -, -, h2⟩ <;> cases h2.symm.trans h
  · exact ⟨rfl, rfl⟩
  · exact ⟨rfl, rfl⟩

/-! ### What every step keeps -/

/-- A property of `VERSION` and the matrix is kept by every step once the reset, a build and a placement have it: no other
operation changes either of the two (R49). -/
theorem step_keeps_symbol {Q : State → Prop}
    (congr : ∀ s t, t.version = s.version → t.mtx = s.mtx → Q s → Q t)
    (cleared : ∀ s, s.version = 0 → s.mtx = Grid.clear → Q s)
    (built : ∀ s v, legalVersion v → s.version = versionWord v → s.mtx = builtMatrix v → Q s)
    (placed : ∀ s d, Q s → Q (s.setMtx (thread d 0 (walk s.mtx s.size) s.mtx))) :
    ∀ s t, Q s → step s = .next t → Q t := by
  refine step_keeps
    (script := fun s _ => congr s _ rfl rfl)
    (respond := fun s _ => congr s _ rfl rfl)
    (draw := fun s _ => congr s _ rfl rfl)
    (ovr := fun s _ => congr s _ rfl rfl)
    (ie := fun s _ => congr s _ rfl rfl)
    (acknowledge := fun s _ => congr s _ rfl rfl)
    (operands := fun s _ _ _ => congr s _ rfl rfl)
    (buffer := fun s _ _ _ => congr s _ rfl rfl)
    (reset := fun _ _ => cleared _ rfl rfl)
    (error := fun s _ _ => congr s _ rfl rfl)
    (accept := fun s _ _ _ => congr s _ rfl rfl)
    (perform := ?_)
  intro s i t _ hs h
  refine exec_keeps h (fun _ => congr s _ rfl rfl hs) (fun u => congr u _ rfl rfl) fun u hc he => ?_
  rcases effectOf_cases he with ⟨-, b, rfl⟩ | ⟨-, g, rfl⟩ | ⟨-, g, vs, rfl⟩ | ⟨rfl, rfl⟩ | ⟨-, d, p, rfl⟩
  · exact congr s _ rfl rfl hs
  · exact congr s _ rfl rfl hs
  · exact congr s _ rfl rfl hs
  · exact built _ _ (legalVersion_of_check hc) rfl rfl
  · exact congr (s.setMtx _) _ rfl rfl (placed s d hs)

theorem step_keeps_versionLegal {s t : State} (hs : s.VersionLegal) (h : step s = .next t) : t.VersionLegal := by
  refine step_keeps_symbol (Q := State.VersionLegal) ?_ (fun _ hv _ => .inl hv)
    (fun _ v hl hv _ => .inr ⟨v, hl, hv⟩) (fun _ _ h => h) s t hs h
  intro s t hv _ h
  rwa [State.VersionLegal, hv]

theorem step_keeps_unsetCellsWhite {s t : State} (hs : s.UnsetCellsWhite) (h : step s = .next t) :
    t.UnsetCellsWhite := by
  have hs : s.mtx.UnsetWhite := hs
  refine step_keeps_symbol (Q := fun s => s.mtx.UnsetWhite) (fun s t _ hm h => hm ▸ h) ?_ ?_
    (fun _ d h => h.thread d _ 0) s t hs h
  · intro s _ hm
    rw [hm]; exact Grid.unsetWhite_clear
  · intro s v hl _ hm
    rw [hm]; exact builtMatrix_of_keptInside hl (keptInside_unsetWhite _) Grid.unsetWhite_clear

theorem step_keeps_outsideClear {s t : State} (hs : s.OutsideClear) (h : step s = .next t) : t.OutsideClear := by
  have hs : s.mtx.ClearOutside s.size := hs
  refine step_keeps_symbol (Q := fun s => s.mtx.ClearOutside s.size) ?_ ?_ ?_ (fun _ d h => h.thread_walk d) s t hs h
  · intro s t hv hm h
    rwa [hm, State.size, hv]
  · intro s _ hm
    rw [hm]; exact Grid.clearOutside_clear _
  · intro s v hl hv hm
    rw [hm, State.size_of_versionWord hl hv]
    exact builtMatrix_of_keptInside hl (keptInside_clearOutside _) (Grid.clearOutside_clear _)

theorem step_keeps_patternsIntact {s t : State} (hs : s.PatternsIntact) (h : step s = .next t) : t.PatternsIntact := by
  refine step_keeps_symbol (Q := State.PatternsIntact) ?_ ?_ ?_ ?_ s t hs h
  · intro s t hv hm h
    rwa [State.PatternsIntact, hm, State.ver, hv]
  · intro s hv hm r c
    rw [hm, State.ver_of_version_zero hv, Grid.cell_clear]
    exact ⟨rfl, nofun⟩
  · intro s v hl hv hm r c
    have hne : (v != 0) = true := bne_iff_ne.2 (Nat.ne_of_gt hl.1)
    rw [hm, State.ver_of_versionWord hl hv, hne, Bool.true_and]
    exact ⟨rfl, fun _ => rfl⟩
  · intro s d h r c
    obtain ⟨hrsv, hcell⟩ := h r c
    rw [State.setMtx_mtx, thread_cell_rsv]
    exact ⟨hrsv, fun hr => (thread_walk_of_rsv hr d _).trans (hcell hr)⟩

theorem step_keeps_busyMatchesPending {s t : State} (hs : s.BusyMatchesPending) (h : step s = .next t) :
    t.BusyMatchesPending := by
  refine step_keeps (P := State.BusyMatchesPending)
    (script := fun _ _ h => h)
    (respond := fun _ _ h => h)
    (draw := fun _ _ h => h)
    (ovr := fun _ _ h => h)
    (ie := fun _ _ h => h)
    (acknowledge := fun _ _ h => h)
    (operands := fun _ _ _ _ h => h)
    (buffer := fun _ _ _ _ h => h)
    (reset := fun _ _ => rfl)
    (error := fun _ _ _ _ => rfl)
    (accept := fun _ _ _ _ _ => rfl)
    (perform := ?_) s t hs h
  intro s i t _ _ h
  obtain ⟨hbusy, hpending⟩ := exec_next_idle h
  rw [State.BusyMatchesPending, hbusy, hpending]; rfl

theorem State.pendingSound_of_none {s : State} (h : s.pending = none) : s.PendingSound := by
  intro i hi
  cases h.symm.trans hi

/-- What keeps the latches, `VERSION`, the pending command and `ERRCODE`, and sets no `DONE`, keeps a pending command
sound. -/
theorem State.PendingSound.of_unchanged {s t : State} (hs : s.PendingSound) (hp : t.pending = s.pending)
    (hl : t.latch = s.latch) (hv : t.version = s.version) (hd : s.status.done = false → t.status.done = false)
    (he : t.status.errcode = s.status.errcode) : t.PendingSound := by
  intro i hi
  obtain ⟨hcheck, hdone, herr⟩ := hs i (hp ▸ hi)
  exact ⟨(check_congr i hl hv).trans hcheck, hd hdone, he.trans herr⟩

theorem step_keeps_pendingSound {s t : State} (hs : s.PendingSound) (h : step s = .next t) : t.PendingSound := by
  refine step_keeps (P := State.PendingSound)
    (script := fun _ _ h => h.of_unchanged rfl rfl rfl id rfl)
    (respond := fun _ _ h => h.of_unchanged rfl rfl rfl id rfl)
    (draw := fun _ _ h => h.of_unchanged rfl rfl rfl id rfl)
    (ovr := fun _ _ h => h.of_unchanged rfl rfl rfl id rfl)
    (ie := fun _ _ h => h.of_unchanged rfl rfl rfl id rfl)
    (acknowledge := fun s w h => h.of_unchanged rfl rfl rfl ?_ rfl)
    (operands := fun _ _ _ _ h => h.of_unchanged rfl rfl rfl id rfl)
    (buffer := fun _ _ _ _ h => h.of_unchanged rfl rfl rfl id rfl)
    (reset := fun _ _ => State.pendingSound_of_none rfl)
    (error := fun _ _ _ _ => State.pendingSound_of_none rfl)
    (accept := fun s i _ hc _ => ?_)
    (perform := fun _ _ _ _ _ h => State.pendingSound_of_none (exec_next_idle h).2) s t hs h
  · intro hd
    simp only [writeStatus, Status.acknowledge, hd, Bool.false_and]
  · rintro j hj
    cases hj
    exact ⟨hc, rfl, rfl⟩

theorem Operands.reservedZero_zero : Operands.zero.reservedZero := by unfold Operands.reservedZero; decide

/-- A write to an operand register leaves its unimplemented bits 0 (R38). -/
theorem Operands.reservedZero.writtenFrom {o o' : Operands} {w : Word} (h : o.reservedZero) (hw : o.writtenFrom w o') :
    o'.reservedZero := by
  obtain ⟨hopa, hopb, hsrc, hdst, hlen⟩ := h
  have h8 : (keep8 w).toNat < 2 ^ 8 := by rw [keep8_toNat]; omega
  have h10 : (keep10 w).toNat < 2 ^ 10 := by rw [keep10_toNat]; omega
  have h11 : (keep11 w).toNat < 2 ^ 11 := by rw [keep11_toNat]; omega
  rcases hw with rfl | rfl | rfl | rfl | rfl
  · exact ⟨h8, hopb, hsrc, hdst, hlen⟩
  · exact ⟨hopa, h8, hsrc, hdst, hlen⟩
  · exact ⟨hopa, hopb, h10, hdst, hlen⟩
  · exact ⟨hopa, hopb, hsrc, h10, hlen⟩
  · exact ⟨hopa, hopb, hsrc, hdst, h11⟩

theorem step_keeps_reservedBitsZero {s t : State} (hs : s.ReservedBitsZero) (h : step s = .next t) :
    t.ReservedBitsZero := by
  refine step_keeps (P := State.ReservedBitsZero)
    (script := fun _ _ h => h)
    (respond := fun _ _ h => h)
    (draw := fun _ _ h => h)
    (ovr := fun _ _ h => h)
    (ie := fun _ _ h => h)
    (acknowledge := fun _ _ h => h)
    (operands := fun _ _ _ ho ⟨hops, hrest⟩ => ⟨hops.writtenFrom ho, hrest⟩)
    (buffer := fun _ _ _ _ h => h)
    (reset := fun _ _ => ⟨Operands.reservedZero_zero, Operands.reservedZero_zero, Nat.two_pow_pos 8,
      Nat.two_pow_pos 16⟩)
    (error := fun _ _ _ ⟨hops, _, hwords⟩ => ⟨hops, hops, hwords⟩)
    (accept := fun _ _ _ _ ⟨hops, _, hwords⟩ => ⟨hops, hops, hwords⟩)
    (perform := ?_) s t hs h
  intro s i t _ hs h
  refine exec_keeps h (fun _ => hs) (fun _ h => h) fun u hc he => ?_
  obtain ⟨hops, hlatch, hresult, hversion⟩ := hs
  rcases effectOf_cases he with ⟨-, b, rfl⟩ | ⟨-, g, rfl⟩ | ⟨-, g, vs, rfl⟩ | ⟨rfl, rfl⟩ | ⟨-, d, p, rfl⟩
  · have hb : (b.zeroExtend 32).toNat < 2 ^ 8 := by
      rw [BitVec.toNat_setWidth]; omega
    exact ⟨hops, hlatch, hb, hversion⟩
  · exact ⟨hops, hlatch, hresult, hversion⟩
  · exact ⟨hops, hlatch, hresult, hversion⟩
  · exact ⟨hops, hlatch, hresult, (versionWord_fields (legalVersion_of_check hc)).2.2⟩
  · exact ⟨hops, hlatch, hresult, hversion⟩

theorem step_keeps_cwb_wf {s t : State} (hs : s.cwb.wf) (h : step s = .next t) : t.cwb.wf := by
  refine step_keeps (P := fun s => s.cwb.wf)
    (script := fun _ _ h => h)
    (respond := fun _ _ h => h)
    (draw := fun _ _ h => h)
    (ovr := fun _ _ h => h)
    (ie := fun _ _ h => h)
    (acknowledge := fun _ _ h => h)
    (operands := fun _ _ _ _ h => h)
    (buffer := fun _ a b _ h => Memory.wf_write a b h)
    (reset := fun _ h => Memory.wf_writeAll _ _ h)
    (error := fun _ _ _ h => h)
    (accept := fun _ _ _ _ h => h)
    (perform := ?_) s t hs h
  intro s i t _ hs h
  refine exec_keeps (P := fun s => s.cwb.wf) h (fun _ => hs) (fun _ h => h) fun u _ he => ?_
  rcases effectOf_cases he with ⟨-, b, rfl⟩ | ⟨-, g, rfl⟩ | ⟨-, g, vs, rfl⟩ | ⟨-, rfl⟩ | ⟨-, d, p, rfl⟩
  · exact hs
  · exact hs
  · exact Memory.wf_writeAll vs _ hs
  · exact hs
  · exact hs

/-! ### The statements of what every step keeps -/

/-- Settles O44: each part of the invariant is kept by itself. -/
theorem stepKeepsTheInvariant : Obligations.StepKeepsTheInvariant := by
  intro s t hs h
  exact {
    reserved := step_keeps_reservedBitsZero hs.reserved h
    busy := step_keeps_busyMatchesPending hs.busy h
    pending := step_keeps_pendingSound hs.pending h
    version := step_keeps_versionLegal hs.version h
    white := step_keeps_unsetCellsWhite hs.white h
    intact := step_keeps_patternsIntact hs.intact h
    outside := step_keeps_outsideClear hs.outside h
    memory := step_keeps_cwb_wf hs.memory h }

/-- Settles O49: only a reset, a build and a placement touch `VERSION` or the matrix, and a placement keeps reserved cells. -/
theorem stepKeepsThePatternsIntact : Obligations.StepKeepsThePatternsIntact :=
  fun _ _ hv hp h => ⟨step_keeps_versionLegal hv h, step_keeps_patternsIntact hp h⟩

theorem State.busyMatchesPending_iff (s : State) :
    s.BusyMatchesPending ↔ (s.status.busy = true ↔ s.pending ≠ none) := by
  rw [State.BusyMatchesPending, Bool.eq_iff_iff, Option.isSome_iff_ne_none]

/-- Settles O45, by the invariant's own form of the equivalence. -/
theorem stepKeepsBusyMatchesPending : Obligations.StepKeepsBusyMatchesPending := by
  intro s t hs h
  rw [← State.busyMatchesPending_iff] at hs ⊢
  exact step_keeps_busyMatchesPending hs h

/-- Settles O46: a placed cell is set, and a reserved one keeps its colour and its `set`. -/
theorem stepKeepsUnsetCellsWhite : Obligations.StepKeepsUnsetCellsWhite := fun _ _ => step_keeps_unsetCellsWhite

/-- Settles O47: operands keep their implemented bits only, a product is a byte, and a legal version fits in 16 bits. -/
theorem stepKeepsReservedBitsZero : Obligations.StepKeepsReservedBitsZero := fun _ _ => step_keeps_reservedBitsZero

/-- Settles O48: every write of the buffer, also a command's and a reset's, is a list of writes of bytes. -/
theorem stepKeepsTheBufferCanonical : Obligations.StepKeepsTheBufferCanonical := fun _ _ => step_keeps_cwb_wf

end Sys2Proof.Machine
end

/-! SUPPORT. The host's word accesses to the registers: what one such step answers, the soft reset, and the steps that keep the
function patterns. -/
section

namespace Sys2Proof.Machine

open Sys2Proof.Spec

/-! ### The step of a word access -/

/-- A step whose turn is a word read below `0x100`. -/
theorem step_read_word {s : State} {off : Addr} {ts : List Turn} (h : s.script = .access (.read off .word) false :: ts)
    (hlt : off.toNat < 0x100) (halign : off.toNat % 4 = 0) :
    step s = .next (readReg off.toNat (s.setScript ts)) := by
  have hb : busAccess (.read off .word) (s.setScript ts) = .next (readReg off.toNat (s.setScript ts)) :=
    busAccess_of_admitted _ (decide_eq_true ⟨hlt, halign⟩)
  rw [step_of_turn h, runTurn_access hb, if_neg Bool.false_ne_true]

/-- A step that reads a register, where the value is exact (R266). -/
theorem step_read_register {s : State} {off : Addr} {ts : List Turn} {r : Reg}
    (h : s.script = .access (.read off .word) false :: ts) (hoff : off.toNat = r.offset)
    (hexact : r.volatile = false ∨ s.status.busy = false) :
    step s = .next { s with script := ts, resp := some (s.regValue r) } := by
  have hlt := r.offset_lt
  have hfree : ¬(r.volatile && (s.setScript ts).status.busy) = true := by
    rw [State.setScript_status, Bool.and_eq_true, not_and_or, Bool.not_eq_true, Bool.not_eq_true]
    exact hexact
  rw [step_read_word h (by omega) (hoff ▸ r.offset_aligned), readReg, regAt_eq_some_iff.2 hoff]
  simp only [if_neg hfree]
  cases r <;> rfl

/-- A step that reads a reserved register offset (R79). -/
theorem step_read_reserved {s : State} {off : Addr} {ts : List Turn}
    (h : s.script = .access (.read off .word) false :: ts) (hlo : 0x030 ≤ off.toNat) (hhi : off.toNat ≤ 0x0FC)
    (halign : off.toNat % 4 = 0) : step s = .next { s with script := ts, resp := some 0 } := by
  rw [step_read_word h (by omega) halign, readReg, regAt_reserved hlo]
  rfl

/-- A step that writes a register. -/
theorem step_write_register {s : State} {off : Addr} {w : Word} {ts : List Turn} {r : Reg}
    (h : s.script = .access (.write off .word w) false :: ts) (hoff : off.toNat = r.offset) :
    step s = .next ((writeReg r w (s.setScript ts)).respond none) := by
  have hlt := r.offset_lt
  have hadm : admitted (.write off .word w) = true :=
    decide_eq_true ⟨Nat.lt_trans (hoff ▸ hlt : off.toNat < 0x030) (by decide), hoff ▸ r.offset_aligned⟩
  have hreg : writeRegAt off.toNat w (s.setScript ts) = writeReg r w (s.setScript ts) := by
    rw [writeRegAt, regAt_eq_some_iff.2 hoff]
  rw [step_of_turn h, runTurn_access (busAccess_write_word _ hadm), if_neg Bool.false_ne_true, hreg]

/-! ### Register reads and writes -/

/-- Settles O33: every register is read at its offset, and a reserved offset reads 0. -/
theorem registerReads : Obligations.RegisterReads := by
  intro s off ts h
  have exact_read (r : Reg) (hv : r.volatile = false) (hoff : off.toNat = r.offset) :
      step s = .next { s with script := ts, resp := some (s.regValue r) } := step_read_register h hoff (.inl hv)
  have idle_read (r : Reg) (hoff : off.toNat = r.offset) (hb : s.status.busy = false) :
      step s = .next { s with script := ts, resp := some (s.regValue r) } := step_read_register h hoff (.inr hb)
  refine ⟨?_, ?_, ?_, ?_, ?_, ?_, ?_, ?_, ?_, ?_, ?_, ?_, step_read_reserved h⟩ <;> rintro rfl
  · exact exact_read .id rfl rfl
  · exact s.ctrlWord_eq ▸ exact_read .ctrl rfl rfl
  · exact exact_read .status rfl rfl
  · exact exact_read .cmd rfl rfl
  · exact exact_read .opa rfl rfl
  · exact exact_read .opb rfl rfl
  · exact exact_read .src rfl rfl
  · exact exact_read .dst rfl rfl
  · exact exact_read .len rfl rfl
  · exact idle_read .result rfl
  · exact idle_read .version rfl
  · exact idle_read .placed rfl

/-- Settles O36: the written operand register keeps the low bits of the data. -/
theorem operandWritesKeepTheImplementedBits : Obligations.OperandWritesKeepTheImplementedBits := by
  intro s off w ts h
  rw [← keep8_eq, ← keep10_eq, ← keep11_eq]
  refine ⟨?_, ?_, ?_, ?_, ?_⟩ <;> rintro rfl
  · exact step_write_register (r := .opa) h rfl
  · exact step_write_register (r := .opb) h rfl
  · exact step_write_register (r := .src) h rfl
  · exact step_write_register (r := .dst) h rfl
  · exact step_write_register (r := .len) h rfl

/-- Settles O37: the word is the sum of its fields, and the write is the acknowledgement. -/
theorem statusReadsAndAcknowledges : Obligations.StatusReadsAndAcknowledges := by
  refine ⟨fun st => ?_, fun s w ts h => step_write_register (r := .status) h rfl⟩
  rw [st.word_toNat, st.err_eq]

/-! ### The soft reset -/

/-- A list of writes is seen at every offset of its region that lies in the buffer, also where the region passes its end. -/
theorem Memory.read_writeAll_inside (vs : List Byte) (m : Memory) (a x : Nat) (ha : a ≤ x) (hx : x < a + vs.length)
    (hbuf : x < Config.cwbBytes) : (m.writeAll a vs).read x = vs[x - a]? := by
  induction vs generalizing m a with
  | nil => simp only [List.length_nil] at hx; omega
  | cons v vs ih =>
    rw [List.length_cons] at hx
    rw [Memory.writeAll]
    obtain rfl | hlt := Nat.eq_or_lt_of_le ha
    · rw [Memory.read_writeAll_outside _ _ _ _ (.inl (Nat.lt_succ_self _)), Memory.read_write _ _ _ hbuf, if_pos rfl,
        Nat.sub_self, List.getElem?_cons_zero]
    · rw [ih _ _ hlt (by omega), show x - a = x - (a + 1) + 1 by omega, List.getElem?_cons_succ]

@[simp] theorem State.freeBytes_length (s : State) (n : Nat) : (s.freeBytes n).length = n := by simp [State.freeBytes]

theorem State.freeBytes_getElem? (s : State) {n k : Nat} (hk : k < n) :
    (s.freeBytes n)[k]? = some (Config.freeByte (s.draws + k)) := by
  simp [State.freeBytes, hk]

/-- The latched fields, as numbers (R104). -/
theorem Operands.dest_eq (o : Operands) : o.dest = o.dst.toNat % 1024 := by simp [Operands.dest]

theorem Operands.degree_eq (o : Operands) : o.degree = o.opa.toNat % 256 := by simp [Operands.degree]

theorem Operands.symbolVersion_eq (o : Operands) : o.symbolVersion = o.opa.toNat % 256 := by
  simp [Operands.symbolVersion]

/-- Only `RS_ENCODE` and `ILV` have an output region (R262). -/
theorem State.outputRegion_length (s : State) :
    s.outputRegion.2 =
      if s.pending = some .rsEncode then s.latch.opa.toNat % 256
      else if s.pending = some .ilv then totalCodewords (s.latch.opa.toNat % 256) else 0 := by
  unfold State.outputRegion
  split <;> simp [*, Operands.symbolVersion_eq, Operands.degree_eq]

/-- An output region starts at `dst` (R262). -/
theorem State.outputRegion_start (s : State) : s.outputRegion.2 = 0 ∨ s.outputRegion.1 = s.latch.dst.toNat % 1024 := by
  unfold State.outputRegion
  split <;> simp [Operands.dest_eq]

/-- The bytes outside the output region survive a cancellation. -/
theorem State.read_cancelledCwb_outside {s : State} {a : Nat}
    (h : a < s.latch.dst.toNat % 1024 ∨ s.latch.dst.toNat % 1024 + s.outputRegion.2 ≤ a) :
    s.cancelledCwb.read a = s.cwb.read a := by
  refine Memory.read_writeAll_outside _ _ _ _ ?_
  rw [State.freeBytes_length]
  rcases s.outputRegion_start with h0 | h1 <;> omega

/-- Each byte of the output region is a draw of its own after a cancellation. -/
theorem State.read_cancelledCwb_inside {s : State} {a : Nat} (hlo : s.latch.dst.toNat % 1024 ≤ a)
    (hhi : a < s.latch.dst.toNat % 1024 + s.outputRegion.2) (hbuf : a < 1024) :
    s.cancelledCwb.read a = some (Config.freeByte (s.draws + (a - s.latch.dst.toNat % 1024))) := by
  have hstart : s.outputRegion.1 = s.latch.dst.toNat % 1024 := by
    rcases s.outputRegion_start with h0 | h1 <;> omega
  rw [State.cancelledCwb, hstart, Memory.read_writeAll_inside _ _ _ _ hlo (by rwa [State.freeBytes_length]) hbuf,
    State.freeBytes_getElem? _ (by omega)]

/-- Settles O42: bit 1 chooses between the soft reset, whose `CWB` is the cancelled one, and the write of `IE`. -/
theorem ctrlWriteResetsOrSetsIe : Obligations.CtrlWriteResetsOrSetsIe := by
  intro s w ts h
  have hstep := step_write_register (r := .ctrl) h rfl
  simp only [writeReg, writeCtrl] at hstep
  constructor
  · intro hw
    rw [hstep, hw]
    rfl
  · intro hw
    rw [if_pos hw] at hstep
    simp only [← s.outputRegion_length]
    exact ⟨_, hstep, rfl, fun a ha => s.read_cancelledCwb_outside ha,
      fun a hlo hhi hbuf => s.read_cancelledCwb_inside hlo hhi hbuf⟩

/-! ### The steps that keep the function patterns -/

/-- `t` has the `VERSION`, the `rsv` bits and the reserved cells of `s`. -/
def State.SamePatterns (s t : State) : Prop :=
  t.version = s.version ∧
    ∀ r c, (t.mtx.cell r c).rsv = (s.mtx.cell r c).rsv ∧
      ((s.mtx.cell r c).rsv = true → t.mtx.cell r c = s.mtx.cell r c)

theorem State.samePatterns_of_eq {s t : State} (hv : t.version = s.version) (hm : t.mtx = s.mtx) : s.SamePatterns t :=
  ⟨hv, fun _ _ => hm ▸ ⟨rfl, fun _ => rfl⟩⟩

/-- A command other than a successful `MTX_BUILD` keeps the patterns (R49, R212). -/
theorem exec_samePatterns {i : Instr} {s t : State} (h : exec i s = .next t)
    (hbuild : i = .mtxBuild → t.status.errcode ≠ none) : s.SamePatterns t := by
  rcases exec_cases i s with ⟨e, -, h2⟩ | ⟨u, -, he, h2⟩ | ⟨a, -, -, h2⟩ <;> cases h2.symm.trans h
  · exact State.samePatterns_of_eq rfl rfl
  · rcases effectOf_cases he with ⟨-, b, rfl⟩ | ⟨-, g, rfl⟩ | ⟨-, g, vs, rfl⟩ | ⟨rfl, -⟩ | ⟨-, d, p, rfl⟩
    · exact State.samePatterns_of_eq rfl rfl
    · exact State.samePatterns_of_eq rfl rfl
    · exact State.samePatterns_of_eq rfl rfl
    · exact absurd rfl (hbuild rfl)
    · exact ⟨rfl, fun r c => ⟨thread_cell_rsv d _ 0 _ r c, fun hr => thread_walk_of_rsv hr d _⟩⟩

/-- What an access other than a soft reset leaves of the symbol and of the pending command: a command that is pending after it
was pending before, or is the one that the access issued to the idle block. -/
structure AccessKeepsSymbol (a : Access) (s t : State) : Prop where
  version : t.version = s.version
  mtx : t.mtx = s.mtx
  pending : ∀ i, t.pending = some i →
    s.pending = some i ∨ s.status.busy = false ∧ ∃ w, a = .write 0x000C .word w ∧ decode w = .command i

theorem accessKeepsSymbol_of_eq {a : Access} {s t : State} (hv : t.version = s.version) (hm : t.mtx = s.mtx)
    (hp : t.pending = s.pending) : AccessKeepsSymbol a s t :=
  ⟨hv, hm, fun _ hi => .inl (hp ▸ hi)⟩

theorem issueCommand_keepsSymbol (w : Word) (s : State) :
    AccessKeepsSymbol (.write 0x000C .word w) s ((issueCommand w s).respond none) := by
  rcases issueCommand_cases w s with ⟨-, h⟩ | ⟨-, e, h⟩ | ⟨hb, i, hd, -, h⟩ <;> rw [h]
  · exact accessKeepsSymbol_of_eq rfl rfl rfl
  · exact ⟨rfl, rfl, nofun⟩
  · refine ⟨rfl, rfl, fun j hj => .inr ⟨hb, w, rfl, ?_⟩⟩
    cases hj
    exact hd

theorem writeRegAt_keepsSymbol {addr : Addr} {w : Word} {s : State}
    (hr : (Access.write addr .word w).softResets = false) :
    AccessKeepsSymbol (.write addr .word w) s ((writeRegAt addr.toNat w s).respond none) := by
  unfold writeRegAt
  split
  · exact accessKeepsSymbol_of_eq rfl rfl rfl
  · next r hreg =>
    have haddr : addr = BitVec.ofNat 16 r.offset := by
      rw [← regAt_eq_some_iff.1 hreg, BitVec.ofNat_toNat, BitVec.setWidth_eq]
    subst haddr
    cases r with
    | cmd => exact issueCommand_keepsSymbol w s
    | ctrl =>
      have hw : ¬w.getLsbD 1 = true := by simpa [Access.softResets, Reg.offset] using hr
      simp only [writeReg, writeCtrl, if_neg hw]
      exact accessKeepsSymbol_of_eq rfl rfl rfl
    | _ => exact accessKeepsSymbol_of_eq rfl rfl rfl

theorem writeWindow_keepsSymbol (a : Access) (x : Window) (b : Byte) (s : State) :
    AccessKeepsSymbol a s ((writeWindow x b s).respond none) := by
  cases x with
  | cwb k =>
    simp only [writeWindow]
    split <;> exact accessKeepsSymbol_of_eq rfl rfl rfl
  | _ => exact accessKeepsSymbol_of_eq rfl rfl rfl

/-- A host access other than a soft reset keeps the symbol. -/
theorem busAccess_keepsSymbol {a : Access} {s t : State} (h : busAccess a s = .next t) (hr : a.softResets = false) :
    AccessKeepsSymbol a s t := by
  cases a with
  | read addr size =>
    obtain ⟨r, n, rfl⟩ := busAccess_read_next h
    exact accessKeepsSymbol_of_eq rfl rfl rfl
  | write addr size w =>
    rcases busAccess_write_next h with ⟨rfl, rfl⟩ | rfl
    · exact writeRegAt_keepsSymbol hr
    · exact writeWindow_keepsSymbol _ _ _ _

/-- A completion step other than that of a successful `MTX_BUILD` keeps the patterns. -/
theorem completionStep_samePatterns {s t : State} (h : completionStep s = .next t)
    (hbuild : s.pending = some .mtxBuild → t.status.errcode ≠ none) : s.SamePatterns t := by
  cases hp : s.pending with
  | none =>
    rw [completionStep_of_idle hp] at h
    cases h
    exact State.samePatterns_of_eq rfl rfl
  | some i =>
    rw [completionStep_of_pending hp] at h
    exact exec_samePatterns h fun hi => hbuild (hi ▸ hp)

/-- Every way a step can answer a next state: the engine moves, or an access completes, with or without the completion step after
it. -/
theorem step_next_cases {s t : State} (h : step s = .next t) :
    (s.script = [] ∧ completionStep s = .next t) ∨
      (∃ ts, s.script = .engine :: ts ∧ completionStep (s.setScript ts) = .next t) ∨
        ∃ a c ts u, s.script = .access a c :: ts ∧ busAccess a (s.setScript ts) = .next u ∧
          (c = false ∧ t = u ∨ c = true ∧ completionStep u = .next t) := by
  cases hsc : s.script with
  | nil => exact .inl ⟨rfl, step_of_empty hsc ▸ h⟩
  | cons turn ts =>
    rw [step_of_turn hsc] at h
    cases turn with
    | engine => exact .inr (.inl ⟨ts, rfl, h⟩)
    | access a c =>
      cases hb : busAccess a (s.setScript ts) with
      | fault f => rw [runTurn_fault c hb] at h; cases h
      | refused r => simp only [runTurn, hb] at h; cases h
      | next u =>
        rw [runTurn_access hb] at h
        refine .inr (.inr ⟨a, c, ts, u, rfl, hb, ?_⟩)
        cases c with
        | false => cases h; exact .inl ⟨rfl, rfl⟩
        | true => exact .inr ⟨rfl, h⟩

/-- Settles O53: an access keeps the symbol unless it resets, and the completion step keeps the patterns unless it builds. -/
theorem onlyABuildOrAResetChangesThePatterns : Obligations.OnlyABuildOrAResetChangesThePatterns := by
  intro s t h hreset hbuild
  have noBuild (hb : buildsNext s) : t.status.errcode ≠ none := fun he => hbuild ⟨hb, he⟩
  show s.SamePatterns t
  rcases step_next_cases h with ⟨hsc, hc⟩ | ⟨ts, hsc, hc⟩ | ⟨a, c, ts, u, hsc, hbus, hc⟩
  · exact completionStep_samePatterns hc fun hp => noBuild ⟨.inl hsc, .inl hp⟩
  · exact completionStep_samePatterns (s := s.setScript ts) hc fun hp => noBuild ⟨.inr (.inl ⟨ts, hsc⟩), .inl hp⟩
  · have hr : a.softResets = false := Bool.eq_false_iff.2 fun hr => hreset ⟨a, c, ts, hsc, hr⟩
    obtain ⟨hv, hm, hpending⟩ := busAccess_keepsSymbol hbus hr
    rcases hc with ⟨-, rfl⟩ | ⟨rfl, hc⟩
    · exact State.samePatterns_of_eq hv hm
    · have same := completionStep_samePatterns hc fun hp => by
        refine noBuild ⟨.inr (.inr ⟨a, ts, hsc⟩), ?_⟩
        rcases hpending _ hp with hp | ⟨hb, w, rfl, hd⟩
        · exact .inl hp
        · obtain rfl := eq_encode_of_decode hd
          exact .inr ⟨hb, ts, hsc⟩
      rwa [State.SamePatterns, hv, hm] at same

end Sys2Proof.Machine
end

/-! SUPPORT. The host's byte accesses to the windows, everything that an access, the completion step and a step can answer, and
the accesses that come while a command runs. -/
section

namespace Sys2Proof.Machine

open Sys2Proof.Spec

/-! ### The byte ranges of the address map (R71) -/

theorem windowAt_gen {k : Nat} (h : k ≤ 30) : windowAt (0x0100 + k) = .gen k := by
  rw [windowAt, if_pos (by omega), Nat.add_sub_cancel_left]

theorem windowAt_log (v : Byte) : windowAt (0x0200 + v.toNat) = .log v := by
  have hv := v.isLt
  rw [windowAt, if_neg (by omega), if_pos (by omega), Nat.add_sub_cancel_left, BitVec.ofNat_toNat, BitVec.setWidth_eq]

/-- The `CWB` window is `0x0400` to `0x07FF`, and no other address reaches the buffer (R75). -/
theorem windowAt_eq_cwb_iff {n k : Nat} : windowAt n = .cwb k ↔ n = 0x0400 + k ∧ k ≤ 1023 := by
  unfold windowAt
  split_ifs <;> simp only [Window.cwb.injEq, false_iff] <;> omega

theorem windowAt_exp {i : Nat} (h : i ≤ 511) : windowAt (0x0800 + i) = .exp i := by
  rw [windowAt, if_neg (by omega), if_neg (by omega), if_neg (by omega), if_pos (by omega), Nat.add_sub_cancel_left]

/-- `MTX` is row by row, 69 bytes to a row (R77). -/
theorem windowAt_mtx {r c : Nat} (hr : r ≤ 68) (hc : c ≤ 68) : windowAt (0x1000 + 69 * r + c) = .mtx r c := by
  have hsub : 0x1000 + 69 * r + c - 0x1000 = 69 * r + c := by omega
  have hdiv : (69 * r + c) / 69 = r := by omega
  have hmod : (69 * r + c) % 69 = c := by omega
  rw [windowAt, if_neg (by omega), if_neg (by omega), if_neg (by omega), if_neg (by omega), if_pos (by omega), hsub,
    hdiv, hmod]

theorem windowAt_reserved {n : Nat}
    (h : (0x011F ≤ n ∧ n ≤ 0x01FF) ∨ (0x0300 ≤ n ∧ n ≤ 0x03FF) ∨ (0x0A00 ≤ n ∧ n ≤ 0x0FFF) ∨ 0x2299 ≤ n) :
    windowAt n = .reserved := by
  rw [windowAt, if_neg (by omega), if_neg (by omega), if_neg (by omega), if_neg (by omega), if_neg (by omega)]

/-! ### What a window read returns -/

/-- The cell byte is the sum of its three bits (R77). -/
theorem Cell.byte_eq (x : Cell) : x.byte = BitVec.ofNat 8 (4 * x.rsv.toNat + 2 * x.set.toNat + x.val.toNat) := by
  have table : ∀ val set rsv : Bool,
      (Cell.mk val set rsv).byte = BitVec.ofNat 8 (4 * rsv.toNat + 2 * set.toNat + val.toNat) := by decide
  exact table x.val x.set x.rsv

theorem readWindow_gen_of_idle (k : Nat) {s : State} (h : s.status.busy = false) :
    readWindow (.gen k) s = .next (s.respondByte (genCoefficient s.gen k)) := by
  simp [readWindow, h]

theorem readWindow_mtx_of_idle (r c : Nat) {s : State} (h : s.status.busy = false) :
    readWindow (.mtx r c) s = .next (s.respondByte (s.mtx.cell r c).byte) := by
  simp [readWindow, h]

theorem readWindow_cwb_of_written {k : Nat} {b : Byte} {s : State} (h : s.status.busy = false)
    (hr : s.cwb.read k = some b) : readWindow (.cwb k) s = .next (s.respondByte b) := by
  simp [readWindow, readCwbWindow, h, hr]

theorem readWindow_cwb_of_unwritten {k : Nat} {s : State} (h : s.status.busy = false) (hr : s.cwb.read k = none) :
    readWindow (.cwb k) s = .fault (.unwrittenCwb k) := by
  simp [readWindow, readCwbWindow, h, hr]

theorem readReg_resp_isSome (off : Nat) (s : State) : (readReg off s).resp.isSome = true := by
  unfold readReg
  split
  · rfl
  · split <;> rfl

theorem readWindow_resp_isSome {w : Window} {s t : State} (h : readWindow w s = .next t) : t.resp.isSome = true := by
  cases w with
  | gen k => cases h; split <;> rfl
  | log v => cases h; rfl
  | exp i => cases h; rfl
  | reserved => cases h; rfl
  | mtx r c => cases h; split <;> rfl
  | cwb k =>
    simp only [readWindow, readCwbWindow] at h
    split at h
    · cases h; rfl
    · split at h <;> cases h
      rfl

/-- A completed read returns a value (R13). -/
theorem busAccess_read_resp_isSome {addr : Addr} {size : AccessSize} {s t : State}
    (h : busAccess (.read addr size) s = .next t) : t.resp.isSome = true := by
  cases ha : admitted (.read addr size) with
  | false => rw [busAccess_of_not_admitted s ha] at h; cases h
  | true =>
    rw [busAccess_of_admitted s ha] at h
    cases size with
    | half => cases h
    | word => cases h; exact readReg_resp_isSome _ _
    | byte => exact readWindow_resp_isSome h

/-- A byte write outside the `CWB` window changes nothing (R79, R80). -/
theorem writeWindow_of_not_cwb {w : Window} (b : Byte) (s : State) (h : ∀ k, w ≠ .cwb k) : writeWindow w b s = s := by
  cases w with
  | cwb k => exact absurd rfl (h k)
  | _ => rfl

/-! ### The step of an access -/

/-- A step whose turn is an access without the completion step answers as the bus does. -/
theorem step_access {s : State} {a : Access} {ts : List Turn} (h : s.script = .access a false :: ts) :
    step s = busAccess a (s.setScript ts) := by
  rw [step_of_turn h]
  cases hb : busAccess a (s.setScript ts) <;> simp [runTurn, hb]

/-- A step whose turn is a byte read at or above `0x100`. -/
theorem step_read_byte {s : State} {addr : Addr} {ts : List Turn} (h : s.script = .access (.read addr .byte) false :: ts)
    (hlo : 0x100 ≤ addr.toNat) : step s = readWindow (windowAt addr.toNat) (s.setScript ts) :=
  (step_access h).trans (busAccess_of_admitted _ (decide_eq_true hlo))

/-- A step whose turn is a byte write at or above `0x100`, outside the `CWB` window (R79, R80). -/
theorem step_write_byte_ignored {s : State} {addr : Addr} {w : Word} {ts : List Turn}
    (h : s.script = .access (.write addr .byte w) false :: ts) (hlo : 0x100 ≤ addr.toNat)
    (hcwb : addr.toNat < 0x0400 ∨ 0x0800 ≤ addr.toNat) : step s = .next { s with script := ts, resp := none } := by
  have hwin : ∀ k, windowAt addr.toNat ≠ .cwb k := fun k hk => by
    obtain ⟨hk, hle⟩ := windowAt_eq_cwb_iff.1 hk
    omega
  rw [step_access h, busAccess_write_byte _ (decide_eq_true hlo), writeWindow_of_not_cwb _ _ hwin]
  rfl

/-- A step that writes a reserved register offset (R79). -/
theorem step_write_reserved {s : State} {off : Addr} {w : Word} {ts : List Turn}
    (h : s.script = .access (.write off .word w) false :: ts) (hlo : 0x030 ≤ off.toNat) (hhi : off.toNat ≤ 0x0FC)
    (halign : off.toNat % 4 = 0) : step s = .next { s with script := ts, resp := none } := by
  have hlt : off.toNat < 0x100 := by omega
  rw [step_access h, busAccess_write_word _ (decide_eq_true ⟨hlt, halign⟩), writeRegAt, regAt_reserved hlo]
  rfl

/-! ### Window reads, and the accesses without effect -/

/-- Settles O34: each address reaches its window, and the window answers its contents. -/
theorem windowReads : Obligations.WindowReads := by
  intro s addr ts h a reads
  have read_at {x : Window} {b : Byte} (hlo : 0x100 ≤ a) (hw : windowAt a = x)
      (hx : readWindow x (s.setScript ts) = .next ((s.setScript ts).respondByte b)) : reads b := by
    rw [← hw] at hx
    exact (step_read_byte h hlo).trans hx
  refine ⟨?gen, ?log, ?cwb, ?unwritten, ?exp, ?mtx, ?reserved⟩
  case gen =>
    intro k hk ha hb
    exact read_at (by omega) (ha ▸ windowAt_gen hk) (readWindow_gen_of_idle k hb)
  case log =>
    intro v ha
    exact read_at (by omega) (ha ▸ windowAt_log v) rfl
  case cwb =>
    intro k hk b ha hb hr
    exact read_at (by omega) (windowAt_eq_cwb_iff.2 ⟨ha, hk⟩) (readWindow_cwb_of_written hb hr)
  case unwritten =>
    intro k hk ha hb hr
    have hlo : 0x100 ≤ addr.toNat := by omega
    rw [step_read_byte h hlo, windowAt_eq_cwb_iff.2 ⟨ha, hk⟩]
    exact readWindow_cwb_of_unwritten hb hr
  case exp =>
    intro i hi ha
    exact read_at (by omega) (ha ▸ windowAt_exp hi) rfl
  case mtx =>
    intro r hr c hc ha hb
    rw [← Cell.byte_eq]
    exact read_at (by omega) (ha ▸ windowAt_mtx hr hc) (readWindow_mtx_of_idle r c hb)
  case reserved =>
    intro ha
    exact read_at (by omega) (windowAt_reserved ha) rfl

/-- Settles O32: a completed read changes the response and the count of draws, and has responded. -/
theorem readsHaveNoSideEffect : Obligations.ReadsHaveNoSideEffect := by
  intro s t addr size ts h hstep
  rw [step_access h] at hstep
  refine ⟨?_, busAccess_read_resp_isSome hstep⟩
  obtain ⟨r, n, rfl⟩ := busAccess_read_next hstep
  rfl

/-- Settles O40: the read-only registers ignore a write, and so do the reserved offsets and every window but `CWB`. -/
theorem readOnlyAndReservedWritesAreIgnored : Obligations.ReadOnlyAndReservedWritesAreIgnored := by
  intro s addr w ts
  refine ⟨?_, fun hwin h => step_write_byte_ignored h (by omega) (by omega)⟩
  rintro (rfl | rfl | rfl | rfl | ⟨hlo, hhi, halign⟩) h
  · exact step_write_register (r := .id) h rfl
  · exact step_write_register (r := .result) h rfl
  · exact step_write_register (r := .version) h rfl
  · exact step_write_register (r := .placed) h rfl
  · exact step_write_reserved h hlo hhi halign

/-! ### Everything an access, the completion step and a step can answer -/

/-- The accesses that the block admits (R78). -/
theorem Access.wf_iff (a : Access) :
    a.wf = true ↔
      (a.size = .word ∧ a.addr.toNat < 0x100 ∧ a.addr.toNat % 4 = 0) ∨ (a.size = .byte ∧ 0x100 ≤ a.addr.toNat) := by
  unfold Access.wf
  cases a.size <;> simp

/-- An access completes, or is a bus error, or reads an unwritten byte of an idle block. -/
theorem busAccess_cases (a : Access) (s : State) :
    (∃ t, busAccess a s = .next t) ∨
      (a.wf = false ∧ busAccess a s = .fault (.busError a.addr)) ∨
        ∃ k, k < Config.cwbBytes ∧ s.status.busy = false ∧ s.cwb.read k = none ∧
          busAccess a s = .fault (.unwrittenCwb k) := by
  cases hwf : a.wf with
  | false => exact .inr (.inl ⟨rfl, busAccess_of_not_admitted s hwf⟩)
  | true =>
    rw [busAccess_of_admitted s hwf]
    rcases a with ⟨addr, _ | _ | _⟩ | ⟨addr, _ | _ | _, data⟩
    · rcases readWindow_cases (windowAt addr.toNat) s with ⟨r, n, h⟩ | ⟨k, hk, hb, hr, h⟩
      · exact .inl ⟨_, h⟩
      · have hlt := (windowAt_eq_cwb_iff.1 hk).2
        exact .inr (.inr ⟨k, Nat.lt_succ_of_le hlt, hb, hr, h⟩)
    · cases hwf
    · exact .inl ⟨_, rfl⟩
    · exact .inl ⟨_, rfl⟩
    · cases hwf
    · exact .inl ⟨_, rfl⟩

/-- No check fails exactly where every check of the list holds. -/
theorem firstError_eq_none_iff {checks : List (Bool × ErrCode)} :
    firstError checks = none ↔ ∀ p ∈ checks, p.1 = true := by
  induction checks with
  | nil => simp
  | cons p rest ih =>
    obtain ⟨ok, e⟩ := p
    cases ok <;> simp [ih]

/-- The number of bytes that a command reads from the buffer, from `L_SRC` on (R104, R233). -/
def Operands.inputLength (l : Operands) : Instr → Nat
  | .gfMul => 0
  | .rsGenpoly => 0
  | .rsEncode => l.length
  | .ilv => dataCodewords l.symbolVersion
  | .mtxBuild => 0
  | .zzPlace => l.length

/-- An effect stops only where the snapshot of the command's input does. -/
theorem snapshot_of_effectOf_error {i : Instr} {s : State} {k : Nat} (h : effectOf i s = .error k) :
    s.cwb.snapshot s.latch.source (s.latch.inputLength i) = .error k := by
  cases i with
  | gfMul => cases h
  | rsGenpoly => cases h
  | mtxBuild => cases h
  | rsEncode =>
    cases hs : s.cwb.snapshot s.latch.source s.latch.length with
    | ok d => cases (effectRsEncode_of_snapshot hs).symm.trans h
    | error e => cases (effect_of_unwritten.1 hs).1.symm.trans h; exact hs
  | ilv =>
    cases hs : s.cwb.snapshot s.latch.source (dataCodewords s.latch.symbolVersion) with
    | ok d => cases (effectIlv_of_snapshot hs).symm.trans h
    | error e => cases (effect_of_unwritten.2 hs).symm.trans h; exact hs
  | zzPlace =>
    cases hs : s.cwb.snapshot s.latch.source s.latch.length with
    | ok d => cases (effectZzPlace_of_snapshot hs).symm.trans h
    | error e => cases (effect_of_unwritten.1 hs).2.symm.trans h; exact hs

/-- The input of a command whose checks pass lies in the buffer (R233). -/
theorem inBuffer_of_check {i : Instr} {s : State} (h : check i s = none) :
    inBuffer s.latch.source (s.latch.inputLength i) := by
  have second {p q : Bool × ErrCode} {rest : List (Bool × ErrCode)} (hp : firstError (p :: q :: rest) = none) :
      q.1 = true := firstError_eq_none_iff.1 hp q (List.mem_cons_of_mem _ List.mem_cons_self)
  have empty : inBuffer s.latch.source 0 := Nat.le_of_lt (BitVec.isLt _)
  cases i with
  | gfMul => exact empty
  | rsGenpoly => exact empty
  | mtxBuild => exact empty
  | rsEncode =>
    rw [check, checkRsEncode] at h
    exact of_decide_eq_true (second h)
  | ilv =>
    rw [check, checkIlv] at h
    exact of_decide_eq_true (second h)
  | zzPlace =>
    rw [check, checkZzPlace] at h
    exact of_decide_eq_true (second h)

/-- A command whose checks pass and whose effect stops has read an unwritten byte of the buffer (R263). -/
theorem effectOf_error {i : Instr} {s : State} {k : Nat} (hc : check i s = none) (h : effectOf i s = .error k) :
    k < Config.cwbBytes ∧ s.cwb.read k = none := by
  obtain ⟨-, hlt, hr, -⟩ := Memory.snapshot_error _ _ _ _ (snapshot_of_effectOf_error h)
  exact ⟨Nat.lt_of_lt_of_le hlt (inBuffer_of_check hc), hr⟩

/-- The completion step ends, or its command reads an unwritten byte. -/
theorem completionStep_cases (s : State) :
    (∃ t, completionStep s = .next t) ∨
      ∃ k, k < Config.cwbBytes ∧ s.cwb.read k = none ∧ completionStep s = .fault (.unwrittenCwb k) := by
  cases hp : s.pending with
  | none => exact .inl ⟨s, completionStep_of_idle hp⟩
  | some i =>
    rw [completionStep_of_pending hp]
    rcases exec_cases i s with ⟨e, -, h⟩ | ⟨u, -, -, h⟩ | ⟨k, hc, he, h⟩
    · exact .inl ⟨_, h⟩
    · exact .inl ⟨_, h⟩
    · obtain ⟨hk, hr⟩ := effectOf_error hc he
      exact .inr ⟨k, hk, hr, h⟩

/-- A byte that is written stays written under a write. -/
theorem Memory.written_write {m : Memory} {x : Nat} (a : Nat) (v : Byte) (h : m.read x ≠ none) :
    (m.write a v).read x ≠ none := by
  unfold Memory.write
  split
  · rw [Memory.read_insert]
    split
    · exact Option.some_ne_none v
    · exact h
  · exact h

theorem Memory.written_writeAll (vs : List Byte) {m : Memory} {x : Nat} (a : Nat) (h : m.read x ≠ none) :
    (m.writeAll a vs).read x ≠ none := by
  induction vs generalizing m a with
  | nil => exact h
  | cons v vs ih => exact ih _ (Memory.written_write a v h)

/-- A written `CWB` byte stays written: no step makes a byte unwritten (R263), the soft reset included (R262). -/
theorem step_keeps_written {x : Nat} {s t : State} (hs : s.cwb.read x ≠ none) (h : step s = .next t) :
    t.cwb.read x ≠ none := by
  refine step_keeps (P := fun s => s.cwb.read x ≠ none)
    (script := fun _ _ hs => hs)
    (respond := fun _ _ hs => hs)
    (draw := fun _ _ hs => hs)
    (ovr := fun _ _ hs => hs)
    (ie := fun _ _ hs => hs)
    (acknowledge := fun _ _ hs => hs)
    (operands := fun _ _ _ _ hs => hs)
    (buffer := fun _ a b _ hs => Memory.written_write a b hs)
    (reset := fun _ hs => Memory.written_writeAll _ _ hs)
    (error := fun _ _ _ hs => hs)
    (accept := fun _ _ _ _ hs => hs)
    (perform := ?_) s t hs h
  intro s i t _ hs he
  refine exec_keeps (P := fun s => s.cwb.read x ≠ none) he (fun _ => hs) (fun _ hu => hu) fun u _ hu => ?_
  rcases effectOf_cases hu with ⟨-, b, rfl⟩ | ⟨-, g, rfl⟩ | ⟨-, g, vs, rfl⟩ | ⟨-, rfl⟩ | ⟨-, d, p, rfl⟩
  · exact hs
  · exact hs
  · exact Memory.written_writeAll vs _ hs
  · exact hs
  · exact hs

/-- A byte that is unwritten after an access was unwritten before it. -/
theorem unwritten_before_access {a : Access} {s t : State} {x : Nat} (h : busAccess a s = .next t)
    (hx : t.cwb.read x = none) : s.cwb.read x = none := by
  have hstep : step (s.setScript (.access a false :: s.script)) = .next t := (step_access rfl).trans h
  by_contra hs
  exact step_keeps_written (s := s.setScript (.access a false :: s.script)) hs hstep hx

/-- Everything a step can answer: a next state, the bus error of an access that is not admitted, or the fault of an unwritten
byte. -/
theorem step_cases (s : State) :
    (∃ t, step s = .next t) ∨
      (∃ a c ts, s.script = .access a c :: ts ∧ a.wf = false ∧ step s = .fault (.busError a.addr)) ∨
        ∃ k, k < Config.cwbBytes ∧ s.cwb.read k = none ∧ step s = .fault (.unwrittenCwb k) := by
  cases hsc : s.script with
  | nil =>
    rw [step_of_empty hsc]
    exact (completionStep_cases s).imp id .inr
  | cons turn ts =>
    rw [step_of_turn hsc]
    cases turn with
    | engine => exact (completionStep_cases (s.setScript ts)).imp id .inr
    | access a c =>
      rcases busAccess_cases a (s.setScript ts) with ⟨t, h⟩ | ⟨hwf, h⟩ | ⟨k, hk, -, hr, h⟩
      · rw [runTurn_access h]
        cases c with
        | false => exact .inl ⟨t, rfl⟩
        | true =>
          refine (completionStep_cases t).imp id fun ⟨k, hk, hr, hc⟩ => .inr ⟨k, hk, ?_, hc⟩
          exact unwritten_before_access (s := s.setScript ts) h hr
      · exact .inr (.inl ⟨a, c, ts, rfl, hwf, runTurn_fault c h⟩)
      · exact .inr (.inr ⟨k, hk, hr, runTurn_fault c h⟩)

/-- Settles O51: a step answers a next state or one of the two faults. -/
theorem stopsOnlyForTheHostsFaults : Obligations.StopsOnlyForTheHostsFaults := by
  intro s
  rcases step_cases s with ⟨t, h⟩ | ⟨a, c, ts, hsc, hwf, h⟩ | ⟨k, hk, hr, h⟩ <;> rw [h]
  · exact ⟨nofun, nofun, nofun⟩
  · refine ⟨nofun, fun b hb => ⟨a, c, ts, hsc, hwf, ?_⟩, nofun⟩
    cases hb
    rfl
  · refine ⟨nofun, nofun, fun b hb => ?_⟩
    cases hb
    exact ⟨hk, hr⟩

/-- Settles O31: the bus refuses an access that is not admitted, and nothing else in a step is a bus error. -/
theorem onlyAdmittedAccessesComplete : Obligations.OnlyAdmittedAccessesComplete := by
  intro s a c ts hsc
  rw [← Access.wf_iff, Bool.not_eq_true]
  constructor
  · intro h
    obtain ⟨-, fromAccess, -⟩ := stopsOnlyForTheHostsFaults s
    obtain ⟨a', c', ts', hsc', hwf, -⟩ := fromAccess _ h
    cases hsc.symm.trans hsc'
    exact hwf
  · intro hwf
    rw [step_of_turn hsc]
    exact runTurn_fault c (busAccess_of_not_admitted _ hwf)

/-! ### The accesses that come while a command runs -/

/-- `s` with the host's side of `u`: `CTRL`, `STATUS`, the operand registers and the model's own fields. The rest of the state is
the engine's: what a command reads, and what it writes beside its flags. -/
def State.withHostSide (s u : State) : State :=
  { s with ie := u.ie, status := u.status, ops := u.ops, resp := u.resp, script := u.script, draws := u.draws }

@[simp] theorem State.withHostSide_cwb (s u : State) : (s.withHostSide u).cwb = s.cwb := rfl
@[simp] theorem State.withHostSide_latch (s u : State) : (s.withHostSide u).latch = s.latch := rfl

/-- An effect neither reads nor writes the host's side (R49, R104). -/
theorem effectOf_withHostSide (i : Instr) (s u : State) :
    effectOf i (s.withHostSide u) = (effectOf i s).map (·.withHostSide u) := by
  cases i with
  | gfMul => rfl
  | rsGenpoly => rfl
  | mtxBuild => rfl
  | rsEncode =>
    simp only [effectOf, effectRsEncode, State.withHostSide_cwb, State.withHostSide_latch]
    cases s.cwb.snapshot s.latch.source s.latch.length <;> rfl
  | ilv =>
    simp only [effectOf, effectIlv, State.withHostSide_cwb, State.withHostSide_latch]
    cases s.cwb.snapshot s.latch.source (dataCodewords s.latch.symbolVersion) <;> rfl
  | zzPlace =>
    simp only [effectOf, effectZzPlace, State.withHostSide_cwb, State.withHostSide_latch]
    cases s.cwb.snapshot s.latch.source s.latch.length <;> rfl

/-- A command's result does not depend on the host's side, its old flags included. -/
theorem exec_withHostSide (i : Instr) (s u : State) : sameCommandResult (exec i (s.withHostSide u)) (exec i s) := by
  have hcheck : check i (s.withHostSide u) = check i s := check_congr i rfl rfl
  have heffect := effectOf_withHostSide i s u
  rcases exec_cases i s with ⟨e, hc, h⟩ | ⟨t, hc, he, h⟩ | ⟨k, hc, he, h⟩ <;> rw [h, exec_eq_perform]
  · rw [perform_of_error _ (hcheck.trans hc)]
    exact ⟨rfl, rfl, rfl, rfl, rfl, rfl, rfl, rfl, rfl, rfl⟩
  · rw [he] at heffect
    rw [perform_of_ok (hcheck.trans hc) heffect]
    exact ⟨rfl, rfl, rfl, rfl, rfl, rfl, rfl, rfl, rfl, rfl⟩
  · rw [he] at heffect
    rw [perform_of_unwritten (hcheck.trans hc) heffect]
    rfl

/-- `t` is `s` but for the host's side, of which `BUSY` and the turns to come are as they were. -/
structure State.KeepsCommand (s t : State) : Prop where
  engine : t = s.withHostSide t
  busy : t.status.busy = s.status.busy
  script : t.script = s.script

/-- A register write while `BUSY = 1` reaches the host's side only, unless it is a soft reset (R267, R269). -/
theorem writeRegAt_keepsCommand {addr : Addr} {w : Word} {s : State} (hb : s.status.busy = true)
    (hr : (Access.write addr .word w).softResets = false) :
    s.KeepsCommand ((writeRegAt addr.toNat w s).respond none) := by
  unfold writeRegAt
  split
  · exact ⟨rfl, rfl, rfl⟩
  · next r hreg =>
    cases r with
    | cmd =>
      rw [writeReg, issueCommand_of_busy w hb]
      exact ⟨rfl, rfl, rfl⟩
    | ctrl =>
      have haddr : addr = 0x0004 := BitVec.eq_of_toNat_eq (regAt_eq_some_iff.1 hreg)
      have hw : ¬w.getLsbD 1 = true := by simpa [Access.softResets, haddr] using hr
      rw [writeReg, writeCtrl, if_neg hw]
      exact ⟨rfl, rfl, rfl⟩
    | _ => exact ⟨rfl, rfl, rfl⟩

/-- A byte write while `BUSY = 1` sets `OVR` at most (R268). -/
theorem writeWindow_keepsCommand (x : Window) (b : Byte) {s : State} (hb : s.status.busy = true) :
    s.KeepsCommand ((writeWindow x b s).respond none) := by
  cases x with
  | cwb k =>
    rw [writeWindow, if_pos hb]
    exact ⟨rfl, rfl, rfl⟩
  | _ => exact ⟨rfl, rfl, rfl⟩

/-- While `BUSY = 1`, an admitted access other than a soft reset completes and leaves the command alone (R86, R269). -/
theorem busAccess_of_busy {a : Access} {s : State} (hb : s.status.busy = true) (hwf : a.wf = true)
    (hr : a.softResets = false) : ∃ t, busAccess a s = .next t ∧ s.KeepsCommand t := by
  rcases busAccess_cases a s with ⟨t, h⟩ | ⟨hn, -⟩ | ⟨k, -, hn, -⟩
  · refine ⟨t, h, ?_⟩
    cases a with
    | read addr size =>
      obtain ⟨r, n, rfl⟩ := busAccess_read_next h
      exact ⟨rfl, rfl, rfl⟩
    | write addr size w =>
      rcases busAccess_write_next h with ⟨rfl, rfl⟩ | rfl
      · exact writeRegAt_keepsCommand hb hr
      · exact writeWindow_keepsCommand _ _ hb
  · rw [hwf] at hn; cases hn
  · rw [hb] at hn; cases hn

theorem run_succ_of_next {s t : State} (k : Nat) (h : step s = .next t) :
    Sys2Proof.core.run (k + 1) s = Sys2Proof.core.run k t := by
  have hcore : Sys2Proof.core.step s = .next t := h
  simp only [Host.Core.run, hcore]

/-- A run of such accesses ends, and the command is as it was. -/
theorem run_accesses_of_busy {accesses : List Access} {s : State} (ts : List Turn) (hb : s.status.busy = true)
    (ha : ∀ a ∈ accesses, a.wf = true ∧ a.softResets = false) :
    ∃ u, Sys2Proof.core.run accesses.length
        (s.setScript (accesses.map (fun a => Turn.access a false) ++ ts)) = .next u ∧
      u.script = ts ∧ u.status.busy = true ∧ u = s.withHostSide u := by
  induction accesses generalizing s with
  | nil => exact ⟨s.setScript ts, rfl, rfl, hb, rfl⟩
  | cons a rest ih =>
    obtain ⟨⟨hwf, hr⟩, hrest⟩ := List.forall_mem_cons.1 ha
    obtain ⟨t, ht, hkeeps⟩ :=
      busAccess_of_busy (s := s.setScript (rest.map (fun a => Turn.access a false) ++ ts)) hb hwf hr
    obtain ⟨u, hrun, hts, hbu, hu⟩ := ih (s := t) (hkeeps.busy.trans hb) hrest
    have hstep : step (s.setScript ((a :: rest).map (fun a => Turn.access a false) ++ ts)) = .next t :=
      (step_access rfl).trans ht
    have hscript : t.setScript (rest.map (fun a => Turn.access a false) ++ ts) = t := by
      exact congrArg t.setScript hkeeps.script.symm
    rw [hscript] at hrun
    refine ⟨u, (run_succ_of_next _ hstep).trans hrun, hts, hbu, ?_⟩
    rw [hkeeps.engine] at hu
    exact hu

/-- Settles O30: the accesses reach the host's side only, and the command does not depend on it. -/
theorem latencyDoesNotChangeTheResult : Obligations.LatencyDoesNotChangeTheResult := by
  intro s i accesses ts hb hp ha
  obtain ⟨u, hrun, hts, hbu, hu⟩ := run_accesses_of_busy ts hb ha
  refine ⟨u, hrun, hts, hbu, ?_, ?_⟩ <;> rw [hu]
  · exact hp
  · exact exec_withHostSide i s u

end Sys2Proof.Machine
end

/-! SUPPORT. The decoder as an equivalence with the six command words, and the step of a `CMD` write to an idle block. -/
section

namespace Sys2Proof

/-! ### The command words (R102, R103, R105) -/

theorem roundTrip (i : Instr) : Laws.RoundTrip.Statement i := by
  cases i with
  | gfMul => exact Laws.RoundTrip.gfMul
  | rsGenpoly => exact Laws.RoundTrip.rsGenpoly
  | rsEncode => exact Laws.RoundTrip.rsEncode
  | ilv => exact Laws.RoundTrip.ilv
  | mtxBuild => exact Laws.RoundTrip.mtxBuild
  | zzPlace => exact Laws.RoundTrip.zzPlace

theorem decode_encode (i : Instr) : decode (encode i) = .command i := by
  obtain ⟨-, -, hdecode⟩ := roundTrip i
  exact hdecode

theorem decode_eq_command_iff {w : Word} {i : Instr} : decode w = .command i ↔ w = encode i :=
  ⟨eq_encode_of_decode, fun h => h ▸ decode_encode i⟩

theorem decode_eq_illegal_iff {w : Word} : decode w = .illegal ↔ ∀ i, w ≠ encode i := by
  simp only [Ne, ← decode_eq_command_iff]
  cases decode w <;> simp

/-- The command words are the numbers 1 to 6. -/
theorem exists_eq_encode_iff {w : Word} : (∃ i, w = encode i) ↔ 1 ≤ w.toNat ∧ w.toNat ≤ 6 := by
  constructor
  · rintro ⟨i, rfl⟩
    cases i <;> decide
  · rintro ⟨hlo, hhi⟩
    have word : ∀ i, w.toNat = (encode i).toNat → ∃ i, w = encode i := fun i h => ⟨i, BitVec.eq_of_toNat_eq h⟩
    obtain h | h | h | h | h | h :
        w.toNat = 1 ∨ w.toNat = 2 ∨ w.toNat = 3 ∨ w.toNat = 4 ∨ w.toNat = 5 ∨ w.toNat = 6 := by omega
    · exact word .gfMul h
    · exact word .rsGenpoly h
    · exact word .rsEncode h
    · exact word .ilv h
    · exact word .mtxBuild h
    · exact word .zzPlace h

theorem decode_eq_illegal_iff_toNat {w : Word} :
    decode w = .illegal ↔ w.toNat / 256 ≠ 0 ∨ w.toNat % 256 = 0 ∨ 7 ≤ w.toNat % 256 := by
  rw [decode_eq_illegal_iff, ← not_exists, exists_eq_encode_iff]
  omega

/-- Settles O1: the decoder inverts the encoder, and answers a command for no other word. -/
theorem decodeMatchesExactlyTheTableWord : Obligations.DecodeMatchesExactlyTheTableWord :=
  ⟨fun _ _ => decode_eq_command_iff, fun _ => decode_eq_illegal_iff, rfl, rfl, rfl, rfl, rfl, rfl⟩

/-- Settles O2: the six words are those of `encode`, and the other three lie outside 1 to 6. -/
theorem specWordsDecode : Obligations.SpecWordsDecode :=
  ⟨decode_encode .gfMul, decode_encode .rsGenpoly, decode_encode .rsEncode, decode_encode .ilv, decode_encode .mtxBuild,
    decode_encode .zzPlace, decode_eq_illegal_iff_toNat.2 (by decide), decode_eq_illegal_iff_toNat.2 (by decide),
    decode_eq_illegal_iff_toNat.2 (by decide)⟩

end Sys2Proof

namespace Sys2Proof.Machine

open Sys2Proof.Spec

/-! ### The step of a `CMD` write (R232, R271) -/

theorem busAccess_write_cmd (w : Word) (s : State) :
    busAccess (.write 0x000C .word w) s = .next ((issueCommand w s).respond none) := by
  have hoff : (0x000C : Addr).toNat < 0x100 ∧ (0x000C : Addr).toNat % 4 = 0 := by decide
  exact busAccess_write_word s (decide_eq_true hoff)

/-- A step whose turn writes `CMD` issues the word; if the turn says so, the completion step comes right after it. -/
theorem step_write_cmd {s : State} {w : Word} {c : Bool} {ts : List Turn}
    (h : s.script = .access (.write 0x000C .word w) c :: ts) :
    step s = if c then completionStep ((issueCommand w (s.setScript ts)).respond none)
      else .next ((issueCommand w (s.setScript ts)).respond none) := by
  rw [step_of_turn h, runTurn_access (busAccess_write_cmd w _)]

/-- A command that ends at once with an error leaves nothing to complete: the completion step that may follow does nothing. -/
theorem step_write_cmd_of_error {s : State} {w : Word} {c : Bool} {ts : List Turn} {e : ErrCode}
    (h : s.script = .access (.write 0x000C .word w) c :: ts)
    (hi : issueCommand w (s.setScript ts) = (s.setScript ts).latchOperands.raiseError e) :
    step s = .next (failed { s with latch := s.ops, script := ts, resp := none } e) := by
  rw [step_write_cmd h, hi]
  cases c <;> rfl

/-- Settles O3: an illegal word is a number outside 1 to 6, and its issue raises `BAD_CMD`. -/
theorem illegalWordEndsAtOnceWithBadCmd : Obligations.IllegalWordEndsAtOnceWithBadCmd := by
  refine ⟨fun w => decode_eq_illegal_iff_toNat, fun s w c ts h hb _ hd => ⟨?_, rfl⟩⟩
  exact step_write_cmd_of_error h (issueCommand_of_illegal hb hd)

/-- Settles O26: where the checks pass, the accepted command is pending and the completion step performs it; where one fails,
its issue and `exec` raise the same error (log entries 11 and 13). -/
theorem stepRunsTheDecodedCommand : Obligations.StepRunsTheDecodedCommand := by
  intro s w i ts h hb hd
  have hidle : (s.setScript ts).status.busy = false := hb
  change step s = exec i (((s.setScript ts).accept i).respond none)
  cases hc : check i (s.setScript ts).latchOperands with
  | none =>
    rw [step_write_cmd h, if_pos rfl, issueCommand_of_ok hidle hd hc]
    exact completionStep_of_pending rfl
  | some e =>
    have hexec : check i (((s.setScript ts).accept i).respond none) = some e := (check_congr i rfl rfl).trans hc
    rw [step_write_cmd_of_error h (issueCommand_of_error hidle hd hc), exec_eq_perform, perform_of_error _ hexec]
    rfl

end Sys2Proof.Machine
end

/-! SUPPORT. GF(256): the tables as powers of `α`, the product as an iterated doubling, which is additive, and the same
product as polynomials modulo `0x11D`. -/
section

namespace Sys2Proof.Spec

open Sys2Proof.Machine

/-! ### Additivity of the doubling and of the product of polynomials (R120, R121) -/

/-- A conditional exclusive or, the step of every loop here, is additive in the accumulator and the condition together. -/
theorem condXor_add {n : Nat} (p q : Bool) (x y c : BitVec n) :
    ((if p then x ^^^ c else x) ^^^ if q then y ^^^ c else y) = if p ^^ q then (x ^^^ y) ^^^ c else x ^^^ y := by
  cases p <;> cases q
  · rfl
  · exact (BitVec.xor_assoc x y c).symm
  · change x ^^^ c ^^^ y = x ^^^ y ^^^ c
    ac_rfl
  · change x ^^^ c ^^^ (y ^^^ c) = x ^^^ y
    rw [BitVec.xor_comm y c, BitVec.xor_assoc, ← BitVec.xor_assoc c c y, BitVec.xor_self, BitVec.zero_xor]

theorem double_xor (a b : Byte) : double (a ^^^ b) = double a ^^^ double b := by
  simp only [double, BitVec.truncate_eq_setWidth, BitVec.setWidth_xor, BitVec.shiftLeft_xor_distrib, BitVec.getLsbD_xor,
    ← condXor_add]

theorem iterate_double_xor (n : Nat) (a b : Byte) : double^[n] (a ^^^ b) = double^[n] a ^^^ double^[n] b := by
  induction n generalizing a b with
  | zero => rfl
  | succ n ih => rw [Function.iterate_succ_apply, double_xor, ih]; rfl

theorem modPrimPoly_xor (p q : BitVec 15) : modPrimPoly (p ^^^ q) = modPrimPoly p ^^^ modPrimPoly q := by
  simp only [modPrimPoly, BitVec.truncate_eq_setWidth, ← BitVec.setWidth_xor]
  refine congrArg _ (List.foldl_hom₂ (List.range 7) (· ^^^ ·) _ _ _ p q fun x y k => ?_)
  rw [condXor_add, BitVec.getLsbD_xor]

theorem carrylessProduct_xor_right (a b c : Byte) :
    carrylessProduct a (b ^^^ c) = carrylessProduct a b ^^^ carrylessProduct a c := by
  refine List.foldl_hom₂ (List.range 8) (· ^^^ ·) _ _ _ (0 : BitVec 15) (0 : BitVec 15) fun x y i => ?_
  rw [condXor_add, BitVec.getLsbD_xor]

theorem carrylessProduct_xor_left (a b c : Byte) :
    carrylessProduct (a ^^^ b) c = carrylessProduct a c ^^^ carrylessProduct b c := by
  refine List.foldl_hom₂ (List.range 8) (· ^^^ ·) _ _ _ (0 : BitVec 15) (0 : BitVec 15) fun x y i => ?_
  simp only [BitVec.setWidth_xor, BitVec.shiftLeft_xor_distrib]
  split
  · ac_rfl
  · rfl

/-- Every byte is a sum of monomials, so a property that sums keep holds of every byte if it holds of the monomials. -/
theorem byte_induction {P : Byte → Prop} (xor : ∀ a b, P a → P b → P (a ^^^ b))
    (monomial : ∀ i < 8, P (BitVec.twoPow 8 i)) (b : Byte) : P b := by
  have sum : ∀ b : Byte,
      (List.range 8).foldl (fun acc i => if b.getLsbD i then acc ^^^ BitVec.twoPow 8 i else acc) 0 = b := by
    decide +kernel
  have zero : P 0 := xor _ _ (monomial 0 (by decide)) (monomial 0 (by decide))
  rw [← sum b]
  refine List.foldlRecOn _ _ zero fun acc h i hi => ?_
  split
  · exact xor _ _ h (monomial i (List.mem_range.1 hi))
  · exact h

/-- The product of two monomials. -/
theorem carrylessProduct_twoPow : ∀ i < 8, ∀ j < 8,
    carrylessProduct (BitVec.twoPow 8 i) (BitVec.twoPow 8 j) = BitVec.twoPow 15 (i + j) := by
  decide

end Sys2Proof.Spec

namespace Sys2Proof.Machine

open Sys2Proof.Spec

/-! ### The tables (R121, R122, R123) -/

theorem EXP_LOG : ∀ {v : Byte}, v ≠ 0 → EXP (LOG v) = v := by decide +kernel

theorem EXP_mod (i : Nat) : EXP (i % 255) = EXP i := by rw [EXP, Nat.mod_mod, EXP]

theorem LOG_EXP (i : Nat) : LOG (EXP i) = i % 255 := by
  have period : ∀ i < 255, LOG (EXP i) = i := by decide +kernel
  rw [← EXP_mod, period _ (Nat.mod_lt _ (by decide))]

theorem EXP_eq_EXP_iff {i j : Nat} : EXP i = EXP j ↔ i % 255 = j % 255 := by
  constructor
  · intro h
    rw [← LOG_EXP, h, LOG_EXP]
  · intro h
    rw [← EXP_mod, h, EXP_mod]

/-- Only `EXP[0] = 1` could have the logarithm of 0. -/
theorem EXP_ne_zero (i : Nat) : EXP i ≠ 0 := by
  intro h
  have hlog : i % 255 = 0 := (LOG_EXP i).symm.trans (congrArg LOG h)
  rw [← EXP_mod, hlog] at h
  exact absurd h (by decide)

theorem LOG_le (v : Byte) : LOG v ≤ 254 := by
  by_cases hv : v = 0
  · rw [hv]; decide
  · have hlog : LOG v % 255 = LOG v := (LOG_EXP _).symm.trans (congrArg LOG (EXP_LOG hv))
    omega

/-- Each entry is the double of the one before, across the end of the period too. -/
theorem EXP_succ (i : Nat) : EXP (i + 1) = double (EXP i) := by
  have period : ∀ i < 255, EXP (i + 1) = double (EXP i) := by decide +kernel
  calc EXP (i + 1) = EXP (i % 255 + 1) := EXP_eq_EXP_iff.2 (Nat.mod_add_mod i 255 1).symm
    _ = double (EXP (i % 255)) := period _ (Nat.mod_lt _ (by decide))
    _ = double (EXP i) := by rw [EXP_mod]

theorem EXP_add (i n : Nat) : EXP (i + n) = double^[n] (EXP i) := by
  induction n with
  | zero => rfl
  | succ n ih => rw [← Nat.add_assoc, EXP_succ, ih, Function.iterate_succ_apply']

theorem EXP_eq_alphaPow (i : Nat) : EXP i = alphaPow i := by
  induction i with
  | zero => rfl
  | succ i ih => rw [EXP_succ, ih, alphaPow]

/-- Every byte is 0 or a power of `α`: the case split of the field's laws. -/
theorem eq_zero_or_eq_EXP (v : Byte) : v = 0 ∨ ∃ i, v = EXP i :=
  or_iff_not_imp_left.2 fun h => ⟨LOG v, (EXP_LOG h).symm⟩

/-! ### The product (R124, R126) -/

theorem gfMul_zero_left (a : Byte) : gfMul 0 a = 0 := if_pos (.inl rfl)

theorem gfMul_zero_right (a : Byte) : gfMul a 0 = 0 := if_pos (.inr rfl)

theorem gfMul_of_ne_zero {a b : Byte} (ha : a ≠ 0) (hb : b ≠ 0) : gfMul a b = EXP (LOG a + LOG b) :=
  if_neg (not_or.2 ⟨ha, hb⟩)

theorem gfMul_EXP_EXP (i j : Nat) : gfMul (EXP i) (EXP j) = EXP (i + j) := by
  rw [gfMul_of_ne_zero (EXP_ne_zero i) (EXP_ne_zero j), LOG_EXP, LOG_EXP, ← EXP_mod, ← Nat.add_mod, EXP_mod]

theorem gfMul_comm (a b : Byte) : gfMul a b = gfMul b a := by
  simp only [gfMul, or_comm, Nat.add_comm]

theorem gfMul_one_left (a : Byte) : gfMul 1 a = a := by
  obtain rfl | ⟨i, rfl⟩ := eq_zero_or_eq_EXP a
  · exact gfMul_zero_right 1
  · exact (gfMul_EXP_EXP 0 i).trans (congrArg EXP (Nat.zero_add i))

theorem gfMul_eq_zero_iff {a b : Byte} : gfMul a b = 0 ↔ a = 0 ∨ b = 0 := by
  constructor
  · intro h
    by_contra hne
    obtain ⟨ha, hb⟩ := not_or.1 hne
    exact EXP_ne_zero _ ((gfMul_of_ne_zero ha hb).symm.trans h)
  · exact fun h => if_pos h

theorem gfMul_assoc (a b c : Byte) : gfMul (gfMul a b) c = gfMul a (gfMul b c) := by
  obtain rfl | ⟨i, rfl⟩ := eq_zero_or_eq_EXP a
  · simp only [gfMul_zero_left]
  obtain rfl | ⟨j, rfl⟩ := eq_zero_or_eq_EXP b
  · simp only [gfMul_zero_left, gfMul_zero_right]
  obtain rfl | ⟨k, rfl⟩ := eq_zero_or_eq_EXP c
  · simp only [gfMul_zero_right]
  simp only [gfMul_EXP_EXP, Nat.add_assoc]

/-- To multiply by `α^j` is to double `j` times. -/
theorem gfMul_EXP_right (a : Byte) (j : Nat) : gfMul a (EXP j) = double^[j] a := by
  obtain rfl | ⟨i, rfl⟩ := eq_zero_or_eq_EXP a
  · rw [gfMul_zero_left, Function.iterate_fixed (by decide)]
  · rw [gfMul_EXP_EXP, EXP_add]

theorem gfMul_xor_left (a b c : Byte) : gfMul (a ^^^ b) c = gfMul a c ^^^ gfMul b c := by
  obtain rfl | ⟨j, rfl⟩ := eq_zero_or_eq_EXP c
  · simp only [gfMul_zero_right]; rfl
  · simp only [gfMul_EXP_right, iterate_double_xor]

theorem gfMul_xor_right (a b c : Byte) : gfMul a (b ^^^ c) = gfMul a b ^^^ gfMul a c := by
  simp only [gfMul_comm a, gfMul_xor_left]

theorem gfMul_inverse {a : Byte} (h : a ≠ 0) : gfMul a (EXP (255 - LOG a)) = 1 := by
  have hsum : LOG a + (255 - LOG a) = 255 := Nat.add_sub_of_le (Nat.le_succ_of_le (LOG_le a))
  calc gfMul a (EXP (255 - LOG a)) = gfMul (EXP (LOG a)) (EXP (255 - LOG a)) := by rw [EXP_LOG h]
    _ = EXP 255 := by rw [gfMul_EXP_EXP, hsum]
    _ = 1 := rfl

/-- The first entries of the table are the monomials, and what follows is their remainder modulo `0x11D`. -/
theorem twoPow_eq_EXP : ∀ i < 8, BitVec.twoPow 8 i = EXP i := by decide

theorem modPrimPoly_twoPow : ∀ n < 15, modPrimPoly (BitVec.twoPow 15 n) = EXP n := by decide

/-- Both products are additive in each factor, and they agree on monomials. -/
theorem gfMul_eq_modPrimPoly (a b : Byte) : gfMul a b = modPrimPoly (carrylessProduct a b) := by
  induction a using byte_induction with
  | xor a a' ha ha' => rw [gfMul_xor_left, carrylessProduct_xor_left, modPrimPoly_xor, ha, ha']
  | monomial i hi =>
    induction b using byte_induction with
    | xor b b' hb hb' => rw [gfMul_xor_right, carrylessProduct_xor_right, modPrimPoly_xor, hb, hb']
    | monomial j hj =>
      calc gfMul (BitVec.twoPow 8 i) (BitVec.twoPow 8 j) = EXP (i + j) := by
            rw [twoPow_eq_EXP i hi, twoPow_eq_EXP j hj, gfMul_EXP_EXP]
        _ = modPrimPoly (carrylessProduct (BitVec.twoPow 8 i) (BitVec.twoPow 8 j)) := by
            rw [carrylessProduct_twoPow i hi j hj, modPrimPoly_twoPow _ (by omega)]

/-- Settles O6: the table's clauses by definition, the polynomial product by its additivity. -/
theorem gfMulIsThePolynomialProduct : Obligations.GfMulIsThePolynomialProduct := by
  refine fun a b => ⟨gfMul_eq_zero_iff.2, fun ha hb => ⟨gfMul_of_ne_zero ha hb, ?_⟩, gfMul_eq_modPrimPoly a b⟩
  exact Nat.add_le_add (LOG_le a) (LOG_le b)

/-- Settles O7: a factor is 0 or a power of `α`, and exponents add; distributivity is the additivity of the doubling. -/
theorem gfMulFieldLaws : Obligations.GfMulFieldLaws :=
  ⟨gfMul_comm, gfMul_assoc, gfMul_xor_right, fun a => ⟨gfMul_one_left a, gfMul_zero_left a⟩, fun _ _ => gfMul_eq_zero_iff,
    fun _ => gfMul_inverse, fun i j _ _ => (gfMul_EXP_EXP i j).trans (EXP_mod _).symm⟩

/-- Settles O4: the doubling loop by induction, with the table's period of 255; `LOG` gives the index of each byte. -/
theorem expTableIsThePowersOfAlpha : Obligations.ExpTableIsThePowersOfAlpha := by
  refine ⟨fun i _ => EXP_eq_alphaPow i, ?order, fun v hv => ⟨LOG v, LOG_le v, EXP_LOG hv⟩,
    fun i hi => ⟨EXP_ne_zero i, fun j hj h => ?distinct⟩, fun i hi _ => ?period, fun i _ => ?power, fun a b => ?index⟩
  case order => rw [← EXP_eq_alphaPow]; rfl
  case distinct =>
    have := EXP_eq_EXP_iff.1 h
    omega
  case period => exact EXP_eq_EXP_iff.2 (Nat.mod_eq_sub_mod hi)
  case power => rw [← EXP_eq_alphaPow, EXP_mod]
  case index =>
    have := LOG_le a
    have := LOG_le b
    omega

/-- Settles O5: `EXP` and `LOG` undo each other. -/
theorem logInvertsExp : Obligations.LogInvertsExp := by
  refine ⟨fun v hv => ⟨LOG_le v, EXP_LOG hv, fun i hi h => ?_⟩, rfl, rfl⟩
  rw [← h, LOG_EXP, Nat.mod_eq_of_lt (Nat.lt_succ_of_le hi)]

/-- Settles O8: `GF_MUL` has no checks and its effect always succeeds; the largest index is that of `0x8E = EXP[254]`
squared. -/
theorem gfMulCompletes : Obligations.GfMulCompletes := by
  refine ⟨decode_encode .gfMul, fun s => ?_, fun b => ⟨gfMul_zero_left b, gfMul_zero_right b, gfMul_one_left b⟩,
    gfMul_EXP_EXP 254 254, rfl, gfMul_EXP_EXP 1 7⟩
  rw [exec_eq_perform]
  exact perform_of_ok rfl rfl

end Sys2Proof.Machine
end

/-! SUPPORT. Reed-Solomon: polynomials evaluated by Horner's rule, the generator and its roots, the remainder register as
a linear map, and the completion of `RS_GENPOLY` and `RS_ENCODE`. -/
section

namespace Sys2Proof.Machine

open Sys2Proof.Spec

/-! ### Sums and multiples of polynomials (R120, R140) -/

theorem gfAdd_eq (a b : Byte) : gfAdd a b = a ^^^ b := rfl

@[simp] theorem gfAdd_zero (a : Byte) : gfAdd a 0 = a := BitVec.xor_zero

@[simp] theorem gfAdd_zero_left (a : Byte) : gfAdd 0 a = a := BitVec.zero_xor

@[simp] theorem gfAdd_self (a : Byte) : gfAdd a a = 0 := BitVec.xor_self

theorem gfAdd_gfAdd_cancel (a b c : Byte) : gfAdd (gfAdd a c) (gfAdd b c) = gfAdd a b := by
  simp only [gfAdd_eq, BitVec.xor_comm b c, BitVec.xor_assoc]
  rw [← BitVec.xor_assoc c c b, BitVec.xor_self, BitVec.zero_xor]

/-- The field's laws, with the model's name of the sum. -/
theorem gfMul_gfAdd (a b c : Byte) : gfMul a (gfAdd b c) = gfAdd (gfMul a b) (gfMul a c) := gfMul_xor_right a b c

theorem gfAdd_gfMul (a b c : Byte) : gfMul (gfAdd a b) c = gfAdd (gfMul a c) (gfMul b c) := gfMul_xor_left a b c

/-- A sum of sums, grouped the other way. -/
theorem zipWith_gfAdd_interchange (p q u v : List Byte) :
    List.zipWith gfAdd (List.zipWith gfAdd p q) (List.zipWith gfAdd u v) =
      List.zipWith gfAdd (List.zipWith gfAdd p u) (List.zipWith gfAdd q v) := by
  refine List.ext_getElem (by simp only [List.length_zipWith]; omega) fun i _ _ => ?_
  simp only [List.getElem_zipWith, gfAdd_eq]
  ac_rfl

/-- Every polynomial is its own negative. -/
theorem zipWith_gfAdd_self (p : List Byte) : List.zipWith gfAdd p p = List.replicate p.length 0 := by
  induction p with
  | nil => rfl
  | cons c p ih => rw [List.zipWith_cons_cons, ih, gfAdd_eq, BitVec.xor_self]; rfl

/-- A multiple of a sum. -/
theorem map_gfMul_zipWith (p q : List Byte) (a : Byte) :
    (List.zipWith gfAdd p q).map (gfMul · a) = List.zipWith gfAdd (p.map (gfMul · a)) (q.map (gfMul · a)) := by
  simp only [List.map_zipWith, List.zipWith_map, gfAdd_gfMul]

/-- A multiple by a sum of factors. -/
theorem map_gfMul_gfAdd (p : List Byte) (a b : Byte) :
    p.map (gfMul · (gfAdd a b)) = List.zipWith gfAdd (p.map (gfMul · a)) (p.map (gfMul · b)) := by
  rw [List.zipWith_map, List.zipWith_self]
  exact List.map_congr_left fun c _ => gfMul_xor_right c a b

/-! ### The value of a polynomial (R15) -/

/-- The value of the upper coefficients stands for them. -/
theorem evalPoly_append (p q : List Byte) (x : Byte) : evalPoly (p ++ q) x = evalPoly (evalPoly p x :: q) x := by
  have carry : gfMul 0 x ^^^ evalPoly p x = evalPoly p x := by rw [gfMul_zero_left]; exact gfAdd_zero_left _
  rw [evalPoly, List.foldl_append, evalPoly, List.foldl_cons, carry, evalPoly]

theorem evalPoly_singleton (c x : Byte) : evalPoly [c] x = c := by
  rw [evalPoly, List.foldl_cons, gfMul_zero_left]
  exact gfAdd_zero_left c

/-- A leading 0 does not count. -/
theorem evalPoly_zero_cons (p : List Byte) (x : Byte) : evalPoly (0 :: p) x = evalPoly p x :=
  (evalPoly_append [] p x).symm

theorem evalPoly_replicate_zero (n : Nat) (x : Byte) : evalPoly (List.replicate n 0) x = 0 := by
  induction n with
  | zero => rfl
  | succ n ih => rw [List.replicate_succ, evalPoly_zero_cons, ih]

/-- Horner's rule, from the last coefficient. -/
theorem evalPoly_concat (p : List Byte) (c x : Byte) :
    evalPoly (p ++ [c]) x = gfAdd (gfMul (evalPoly p x) x) c := by
  rw [evalPoly, List.foldl_append]; rfl

/-- Horner's rule, from the leading coefficient. -/
theorem evalPoly_cons_cons (a b : Byte) (p : List Byte) (x : Byte) :
    evalPoly (a :: b :: p) x = evalPoly (gfAdd (gfMul a x) b :: p) x := by
  have value : evalPoly ([a] ++ [b]) x = gfAdd (gfMul a x) b := by rw [evalPoly_concat, evalPoly_singleton]
  rw [← value, ← evalPoly_append]; rfl

/-- The value of a sum. -/
theorem evalPoly_zipWith_gfAdd {p q : List Byte} (x : Byte) (h : p.length = q.length) :
    evalPoly (List.zipWith gfAdd p q) x = gfAdd (evalPoly p x) (evalPoly q x) := by
  induction p using List.reverseRecOn generalizing q with
  | nil =>
    rw [List.eq_nil_of_length_eq_zero h.symm]
    exact (gfAdd_self 0).symm
  | append_singleton p c ih =>
    obtain rfl | ⟨q, e, rfl⟩ := q.eq_nil_or_concat'
    · simp at h
    have hlen : p.length = q.length := by simpa using h
    rw [List.zipWith_append hlen, List.zipWith_cons_cons, List.zipWith_nil_left, evalPoly_concat, evalPoly_concat,
      evalPoly_concat, ih hlen, gfAdd_gfMul]
    simp only [gfAdd_eq]
    ac_rfl

/-- The value of a multiple. -/
theorem evalPoly_map_gfMul (p : List Byte) (a x : Byte) :
    evalPoly (p.map (gfMul · a)) x = gfMul (evalPoly p x) a := by
  induction p using List.reverseRecOn with
  | nil => exact (gfMul_zero_left a).symm
  | append_singleton p c ih =>
    rw [List.map_append, List.map_singleton, evalPoly_concat, evalPoly_concat, ih, gfAdd_gfMul, gfMul_assoc,
      gfMul_comm a x, gfMul_assoc]

/-- The factor `(x + a)` multiplies the value. -/
theorem evalPoly_mulByRoot (g : List Byte) (a x : Byte) :
    evalPoly (mulByRoot g a) x = gfMul (evalPoly g x) (gfAdd x a) := by
  have hlen : (g ++ [0]).length = (0 :: g.map (gfMul · a)).length := by simp
  rw [mulByRoot, evalPoly_zipWith_gfAdd x hlen, evalPoly_concat, evalPoly_zero_cons, evalPoly_map_gfMul, gfAdd_zero,
    gfMul_gfAdd]

/-! ### The generator (R140) -/

/-- A factor keeps the leading coefficient. -/
theorem mulByRoot_cons (c : Byte) (g : List Byte) (a : Byte) :
    mulByRoot (c :: g) a = c :: (mulByRoot (c :: g) a).tail :=
  congrArg (· :: _) (gfAdd_zero c)

/-- The order of two factors does not matter: both products are `g·x² + g·x·(a + b) + g·a·b`. -/
theorem mulByRoot_comm (g : List Byte) (a b : Byte) : mulByRoot (mulByRoot g a) b = mulByRoot (mulByRoot g b) a := by
  have expand : ∀ a b, mulByRoot (mulByRoot g a) b =
      List.zipWith gfAdd
        (List.zipWith gfAdd (g ++ [0] ++ [0]) (0 :: g.map (gfMul · a) ++ [0]))
        (List.zipWith gfAdd (0 :: g.map (gfMul · b) ++ [0]) (0 :: 0 :: g.map (gfMul · (gfMul a b)))) := by
    intro a b
    have scaled : (0 :: (mulByRoot g a).map (gfMul · b)) =
        List.zipWith gfAdd (0 :: g.map (gfMul · b) ++ [0]) (0 :: 0 :: g.map (gfMul · (gfMul a b))) := by
      rw [mulByRoot, map_gfMul_zipWith]
      simp only [List.map_append, List.map_cons, List.map_nil, List.map_map, Function.comp_def, gfMul_zero_left,
        gfMul_assoc]
      rfl
    rw [mulByRoot, scaled, mulByRoot, List.zipWith_append (by simp)]
    rfl
  rw [expand, expand, zipWith_gfAdd_interchange, gfMul_comm a b]

/-- The generator is monic. -/
theorem exists_genpoly_eq_cons (n : Nat) : ∃ g, genpoly n = 1 :: g ∧ g.length = n := by
  induction n with
  | zero => exact ⟨[], rfl, rfl⟩
  | succ n ih =>
    obtain ⟨g, hg, hlen⟩ := ih
    exact ⟨(mulByRoot (1 :: g) (EXP n)).tail, by rw [genpoly_succ, hg, ← mulByRoot_cons], by simp [hlen]⟩

theorem genpoly_length (n : Nat) : (genpoly n).length = n + 1 := by
  obtain ⟨g, hg, hlen⟩ := exists_genpoly_eq_cons n
  rw [hg, List.length_cons, hlen]

/-- Each factor's root is a root of the generator. -/
theorem evalPoly_genpoly {n i : Nat} (h : i < n) : evalPoly (genpoly n) (EXP i) = 0 := by
  induction n with
  | zero => omega
  | succ n ih =>
    rw [genpoly_succ, evalPoly_mulByRoot]
    obtain rfl | hlt := Nat.eq_or_lt_of_le (Nat.le_of_lt_succ h)
    · rw [gfAdd_self, gfMul_zero_right]
    · rw [ih hlt, gfMul_zero_left]

/-- Settles O9: each factor keeps the leading coefficient and brings its root, by induction on the degree. -/
theorem genpolyHasItsRoots : Obligations.GenpolyHasItsRoots := by
  refine ⟨fun n => ⟨genpoly_length n, ?_, fun i hi => evalPoly_genpoly hi⟩, mulByRoot_comm⟩
  obtain ⟨g, hg, -⟩ := exists_genpoly_eq_cons n
  rw [hg, List.head?_cons]

/-! ### The remainder register (R143) -/

/-- A step shifts the register and adds the multiple of the generator that clears its first byte. -/
theorem remainderStep_eq (g r : List Byte) (d : Byte) :
    remainderStep g r d =
      List.zipWith gfAdd (r.tail ++ [0]) (g.tail.map (gfMul · (gfAdd d (r.headD 0)))) := by
  rw [remainderStep, List.zipWith_map_right]

theorem rsRemainder_concat (d : List Byte) (b : Byte) (g : List Byte) :
    rsRemainder (d ++ [b]) g = remainderStep g (rsRemainder d g) b := by
  rw [rsRemainder, List.foldl_append]; rfl

/-- The register has one byte for each coefficient below the leading one. -/
theorem rsRemainder_length (d g : List Byte) : (rsRemainder d g).length = g.length - 1 := by
  induction d using List.reverseRecOn with
  | nil => exact List.length_replicate
  | append_singleton d b ih =>
    rw [rsRemainder_concat, remainderStep_eq]
    simp only [List.length_zipWith, List.length_append, List.length_tail, List.length_map, List.length_singleton, ih]
    omega

theorem rsRemainder_genpoly_length (d : List Byte) (n : Nat) : (rsRemainder d (genpoly n)).length = n := by
  rw [rsRemainder_length, genpoly_length, Nat.add_sub_cancel]

/-- Where the data and the register vanish at a root of a monic generator, they do after one more byte: with `v` the value
of the data so far, `(v·x + b)·xⁿ + r'(x)` is `x·(v·xⁿ + r(x)) + f·g(x)`, where `f = b + r[0]`. -/
theorem evalPoly_remainderStep {g r : List Byte} {v x : Byte} (b : Byte) (hlen : r.length = g.length) (hr : r ≠ [])
    (hroot : evalPoly (1 :: g) x = 0) (h : evalPoly (v :: r) x = 0) :
    evalPoly (gfAdd (gfMul v x) b :: remainderStep (1 :: g) r b) x = 0 := by
  obtain _ | ⟨r₀, r⟩ := r
  · exact absurd rfl hr
  have lead : gfAdd (gfMul v x) b = gfAdd (gfAdd (gfMul v x) r₀) (gfMul 1 (gfAdd b r₀)) := by
    rw [gfMul_one_left, gfAdd_gfAdd_cancel]
  have split : gfAdd (gfMul v x) b :: remainderStep (1 :: g) (r₀ :: r) b =
      List.zipWith gfAdd (gfAdd (gfMul v x) r₀ :: r ++ [0]) ((1 :: g).map (gfMul · (gfAdd b r₀))) := by
    rw [remainderStep_eq, lead]; rfl
  rw [split, evalPoly_zipWith_gfAdd x (by simpa using hlen), evalPoly_map_gfMul, hroot, gfMul_zero_left, gfAdd_zero,
    evalPoly_concat, gfAdd_zero, ← evalPoly_cons_cons, h, gfMul_zero_left]

/-- Data and remainder together vanish at every root of a monic generator (R143). -/
theorem evalPoly_append_rsRemainder {g : List Byte} {x : Byte} (d : List Byte) (hg : g ≠ [])
    (hroot : evalPoly (1 :: g) x = 0) : evalPoly (d ++ rsRemainder d (1 :: g)) x = 0 := by
  have hlen : ∀ d, (rsRemainder d (1 :: g)).length = g.length := fun d => rsRemainder_length d (1 :: g)
  induction d using List.reverseRecOn with
  | nil => exact evalPoly_replicate_zero _ x
  | append_singleton d b ih =>
    have hne : rsRemainder d (1 :: g) ≠ [] :=
      List.ne_nil_of_length_pos ((hlen d).symm ▸ List.length_pos_iff.2 hg)
    rw [evalPoly_append] at ih
    rw [evalPoly_append, evalPoly_concat, rsRemainder_concat]
    exact evalPoly_remainderStep b (hlen d) hne hroot ih

/-- Settles O13: the register keeps data and remainder a multiple of the generator, by induction on the data. -/
theorem rsCodewordVanishesAtTheRoots : Obligations.RsCodewordVanishesAtTheRoots := by
  intro d n i hn hi
  refine ⟨rsRemainder_genpoly_length d n, ?_⟩
  obtain ⟨g, hg, rfl⟩ := exists_genpoly_eq_cons n
  rw [hg]
  exact evalPoly_append_rsRemainder d (List.ne_nil_of_length_pos hn) (hg ▸ evalPoly_genpoly hi)

/-! ### Linearity of the remainder (R143) -/

/-- A step on sums of registers and of data bytes. -/
theorem remainderStep_zipWith {r s : List Byte} (g : List Byte) (a b : Byte) (h : r.length = s.length) :
    remainderStep g (List.zipWith gfAdd r s) (gfAdd a b) =
      List.zipWith gfAdd (remainderStep g r a) (remainderStep g s b) := by
  have shifted : (List.zipWith gfAdd r s).tail ++ [0] = List.zipWith gfAdd (r.tail ++ [0]) (s.tail ++ [0]) := by
    rw [List.zipWith_append (by simp [h]), List.tail_zipWith]; rfl
  have factor : gfAdd (gfAdd a b) ((List.zipWith gfAdd r s).headD 0) =
      gfAdd (gfAdd a (r.headD 0)) (gfAdd b (s.headD 0)) := by
    obtain _ | ⟨r₀, r⟩ := r
    · rw [List.eq_nil_of_length_eq_zero h.symm]
      exact (gfAdd_zero _).trans (gfAdd_gfAdd_cancel a b 0).symm
    · obtain _ | ⟨s₀, s⟩ := s
      · cases h
      simp only [List.zipWith_cons_cons, List.headD_cons, gfAdd_eq]
      ac_rfl
  simp only [remainderStep_eq, shifted, factor, map_gfMul_gfAdd, zipWith_gfAdd_interchange]

/-- The remainder of a sum of data lists. -/
theorem rsRemainder_zipWith {d e : List Byte} (g : List Byte) (h : d.length = e.length) :
    rsRemainder (List.zipWith gfAdd d e) g = List.zipWith gfAdd (rsRemainder d g) (rsRemainder e g) := by
  induction d using List.reverseRecOn generalizing e with
  | nil =>
    rw [List.eq_nil_of_length_eq_zero h.symm]
    simp [rsRemainder]
  | append_singleton d a ih =>
    obtain rfl | ⟨e, b, rfl⟩ := e.eq_nil_or_concat'
    · simp at h
    have hlen : d.length = e.length := by simpa using h
    have hreg : (rsRemainder d g).length = (rsRemainder e g).length := by simp only [rsRemainder_length]
    rw [List.zipWith_append hlen, List.zipWith_cons_cons, List.zipWith_nil_left, rsRemainder_concat, ih hlen,
      remainderStep_zipWith g a b hreg, rsRemainder_concat, rsRemainder_concat]

/-- All-zero data is the sum of any data of its length with itself. -/
theorem rsRemainder_replicate_zero (k : Nat) (g : List Byte) :
    rsRemainder (List.replicate k 0) g = List.replicate (g.length - 1) 0 := by
  have h := rsRemainder_zipWith (d := List.replicate k 0) g rfl
  rwa [zipWith_gfAdd_self, zipWith_gfAdd_self, List.length_replicate, rsRemainder_length] at h

/-- Degree 1: the register is one byte, to which each data byte is added. -/
theorem rsRemainder_genpoly_one (d : List Byte) : rsRemainder d (genpoly 1) = [d.foldl gfAdd 0] := by
  have step : ∀ a b, remainderStep (genpoly 1) [a] b = [gfAdd a b] := by
    intro a b
    have hg : genpoly 1 = [1, 1] := rfl
    simp only [hg, remainderStep_eq, List.tail_cons, List.nil_append, List.map_cons, List.map_nil, List.headD_cons,
      List.zipWith_cons_cons, List.zipWith_nil_left, gfMul_one_left, gfAdd_zero_left]
    rw [gfAdd_eq, gfAdd_eq, BitVec.xor_comm]
  exact List.foldl_hom (fun a => [a]) step

/-- Settles O14: every step of the register is linear; the sum is the exclusive or. -/
theorem rsRemainderIsLinear : Obligations.RsRemainderIsLinear := by
  refine ⟨fun d e g h => rsRemainder_zipWith g h, fun n k => ?_, rsRemainder_genpoly_one⟩
  rw [rsRemainder_replicate_zero, genpoly_length, Nat.add_sub_cancel]

/-! ### The completion of `RS_GENPOLY` and `RS_ENCODE` (R142, R144) -/

theorem Operands.source_eq (o : Operands) : o.source = o.src.toNat % 1024 := by simp [Operands.source]

theorem Operands.length_eq (o : Operands) : o.length = o.len.toNat % 2048 := by simp [Operands.length]

/-- Regions with equal bytes have one snapshot. -/
theorem Memory.snapshot_congr {m m' : Memory} {a a' n : Nat} {d d' : List Byte} (h : m.snapshot a n = .ok d)
    (h' : m'.snapshot a' n = .ok d') (heq : ∀ k < n, m.read (a + k) = m'.read (a' + k)) : d = d' := by
  obtain ⟨hlen, hread⟩ := (Memory.snapshot_ok _ _ _ _).1 h
  obtain ⟨hlen', hread'⟩ := (Memory.snapshot_ok _ _ _ _).1 h'
  refine List.ext_getElem? fun k => ?_
  by_cases hk : k < n
  · rw [← hread k hk, heq k hk, hread' k hk]
  · rw [List.getElem?_eq_none (by omega), List.getElem?_eq_none (by omega)]

/-- `GEN` after `store_gen(genpoly(n), n)` (R141). -/
theorem genCoefficient_genFile_genpoly (n : Nat) {k : Nat} (hk : k ≤ 30) :
    genCoefficient (genFile (genpoly n)) k = if k ≤ n then (genpoly n).getD k 0 else 0 := by
  rw [genCoefficient_genFile, if_pos (Nat.lt_succ_of_le hk)]
  split
  · rfl
  · exact List.getD_eq_default _ _ (by rw [genpoly_length]; omega)

/-- The one check of `RS_GENPOLY` (R233). -/
theorem check_rsGenpoly (s : State) :
    check .rsGenpoly s = if legalDegree s.latch.degree then none else some .badDegree := by
  simp only [check, checkRsGenpoly, firstError_cons, firstError_nil, decide_eq_true_eq]

/-- Settles O10: the one check of the rule, then the effect, which always succeeds. -/
theorem rsGenpolyCompletes : Obligations.RsGenpolyCompletes := by
  refine ⟨decode_encode .rsGenpoly, rfl, rfl, rfl, fun s n hn => ?_⟩
  rw [← Operands.degree_eq] at hn
  subst hn
  rw [exec_eq_perform]
  constructor
  · intro h
    have hc : check .rsGenpoly s = none := (check_rsGenpoly s).trans (if_pos h)
    exact ⟨_, perform_of_ok hc rfl, rfl, fun k hk => genCoefficient_genFile_genpoly _ hk⟩
  · intro h
    exact perform_of_error _ ((check_rsGenpoly s).trans (if_neg h))

/-- The three checks of `RS_ENCODE` (R233). -/
theorem check_rsEncode_eq_none_iff {s : State} :
    check .rsEncode s = none ↔
      legalDegree s.latch.degree ∧ inBuffer s.latch.source s.latch.length ∧ inBuffer s.latch.dest s.latch.degree := by
  simp only [check, checkRsEncode, firstError_eq_none_iff, List.forall_mem_cons, decide_eq_true_eq, List.not_mem_nil,
    false_imp_iff, implies_true, and_true]

/-- The state that `RS_ENCODE` leaves, with `d` the snapshot of its input (R144). -/
def State.encoded (s : State) (d : List Byte) : State :=
  ((s.setGen (genpoly s.latch.degree)).setCwb
    (s.cwb.writeAll s.latch.dest (rsRemainder d (genpoly s.latch.degree)))).complete

theorem exec_rsEncode_of_snapshot {s : State} {d : List Byte} (hc : check .rsEncode s = none)
    (h : s.cwb.snapshot s.latch.source s.latch.length = .ok d) : exec .rsEncode s = .next (s.encoded d) := by
  rw [exec_eq_perform]
  exact perform_of_ok hc (effectRsEncode_of_snapshot h)

/-- Without an error, `RS_ENCODE` has passed its checks and read its whole input. -/
theorem eq_encoded_of_exec {s t : State} (h : exec .rsEncode s = .next t) (he : t.status.errcode = none) :
    ∃ d, check .rsEncode s = none ∧ s.cwb.snapshot s.latch.source s.latch.length = .ok d ∧ t = s.encoded d := by
  rcases exec_cases .rsEncode s with ⟨e, -, ht⟩ | ⟨u, hc, hu, -⟩ | ⟨a, -, -, ht⟩
  · cases ht.symm.trans h
    cases he
  · cases hs : s.cwb.snapshot s.latch.source s.latch.length with
    | ok d =>
      have := (exec_rsEncode_of_snapshot hc hs).symm.trans h
      exact ⟨d, hc, rfl, (Host.Outcome.next.inj this).symm⟩
    | error a => cases (effect_of_unwritten.1 hs).1.symm.trans hu
  · cases ht.symm.trans h

/-- The remainder stands at `dst`. -/
theorem State.encoded_read_output {s : State} (d : List Byte) {i : Nat} (hbuf : inBuffer s.latch.dest s.latch.degree)
    (hi : i < s.latch.degree) :
    (s.encoded d).cwb.read (s.latch.dest + i) = (rsRemainder d (genpoly s.latch.degree))[i]? := by
  have hlen := rsRemainder_genpoly_length d s.latch.degree
  have hread := Memory.read_writeAll (rsRemainder d (genpoly s.latch.degree)) s.cwb s.latch.dest (s.latch.dest + i)
    (by rwa [hlen])
  rwa [if_pos (by omega), Nat.add_sub_cancel_left] at hread

/-- Nothing outside the output region is written. -/
theorem State.encoded_read_outside {s : State} (d : List Byte) {a : Nat}
    (h : a < s.latch.dest ∨ s.latch.dest + s.latch.degree ≤ a) : (s.encoded d).cwb.read a = s.cwb.read a :=
  Memory.read_writeAll_outside _ _ _ _ (by rwa [rsRemainder_genpoly_length])

/-- Settles O11: the checks pass, the snapshot is the written input, and only the output region of `CWB` is written. -/
theorem rsEncodeCompletes : Obligations.RsEncodeCompletes := by
  intro s n src dst len d hn hsrc hdst hlen hn1 hn30 hin hout hd hread
  rw [← Operands.degree_eq] at hn
  rw [← Operands.source_eq] at hsrc
  rw [← Operands.dest_eq] at hdst
  rw [← Operands.length_eq] at hlen
  subst hn hsrc hdst hlen
  have hc : check .rsEncode s = none := check_rsEncode_eq_none_iff.2 ⟨⟨hn1, hn30⟩, hin, hout⟩
  have hs : s.cwb.snapshot s.latch.source s.latch.length = .ok d := (Memory.snapshot_ok _ _ _ _).2 ⟨hd, hread⟩
  exact ⟨s.encoded d, exec_rsEncode_of_snapshot hc hs, rfl, fun k hk => genCoefficient_genFile_genpoly _ hk,
    rsRemainder_genpoly_length d _, fun i hi => State.encoded_read_output d hout hi,
    fun a ha => State.encoded_read_outside d ha⟩

/-- Settles O12: both runs write the remainder of one snapshot by one generator. -/
theorem rsEncodeIsPure : Obligations.RsEncodeIsPure := by
  intro s s' t t' hn hlen hdata ht ht' he he' i hi
  obtain ⟨d, hc, hs, rfl⟩ := eq_encoded_of_exec ht he
  obtain ⟨d', hc', hs', rfl⟩ := eq_encoded_of_exec ht' he'
  obtain ⟨-, -, hout⟩ := check_rsEncode_eq_none_iff.1 hc
  obtain ⟨-, -, hout'⟩ := check_rsEncode_eq_none_iff.1 hc'
  simp only [← Operands.degree_eq, ← Operands.length_eq, ← Operands.source_eq, ← Operands.dest_eq]
    at hn hlen hdata hi ⊢
  rw [← hlen] at hs'
  obtain rfl := Memory.snapshot_congr hs hs' hdata
  rw [State.encoded_read_output d hout hi, State.encoded_read_output d hout' (hn ▸ hi), hn]

end Sys2Proof.Machine
end

/-! SUPPORT. The interleaver: the round-robin walk, the blocks of a version, the position of each byte in the output, and
the completion of `ILV`. -/
section

namespace Sys2Proof.Machine

open Sys2Proof.Spec

/-! ### The round-robin walk (R164, R165) -/

theorem roundRobin_succ (blocks : List (List Byte)) (n : Nat) :
    roundRobin blocks (n + 1) = roundRobin blocks n ++ blocks.filterMap fun b => b[n]? := by
  simp only [roundRobin, List.range_succ, List.flatMap_append, List.flatMap_singleton]

/-- The place `j` of turn `i` lies before turn `n`. -/
theorem turn_place_lt {i j n B : Nat} (hi : i < n) (hj : j < B) : i * B + j < n * B := by
  rw [Nat.mul_comm i]
  exact Nat.mul_add_lt_mul_of_lt_of_lt hi hj

/-- One turn of the walk, where every block has a byte `i`. -/
theorem filterMap_getElem?_eq_map {blocks : List (List Byte)} {i : Nat} (h : ∀ b ∈ blocks, i < b.length) :
    (blocks.filterMap fun b => b[i]?) = blocks.map fun b => b.getD i 0 :=
  List.filterMap_eq_map_iff_forall_eq_some.2 fun b hb => by
    rw [List.getD_eq_getElem _ _ (h b hb), List.getElem?_eq_getElem (h b hb)]

theorem length_filterMap_getElem? {blocks : List (List Byte)} {i : Nat} (h : ∀ b ∈ blocks, i < b.length) :
    (blocks.filterMap fun b => b[i]?).length = blocks.length := by
  rw [filterMap_getElem?_eq_map h, List.length_map]

theorem getElem?_filterMap_getElem? {blocks : List (List Byte)} {i j : Nat} {b : List Byte}
    (h : ∀ b ∈ blocks, i < b.length) (hj : blocks[j]? = some b) : (blocks.filterMap fun b => b[i]?)[j]? = b[i]? := by
  have hi := h b (List.mem_of_getElem? hj)
  rw [filterMap_getElem?_eq_map h, List.getElem?_map, hj, Option.map_some, List.getD_eq_getElem _ _ hi,
    List.getElem?_eq_getElem hi]

theorem roundRobin_length {blocks : List (List Byte)} {n : Nat} (h : ∀ b ∈ blocks, n ≤ b.length) :
    (roundRobin blocks n).length = n * blocks.length := by
  induction n with
  | zero => rw [Nat.zero_mul]; rfl
  | succ n ih =>
    rw [roundRobin_succ, List.length_append, ih fun b hb => Nat.le_of_lt (h b hb), length_filterMap_getElem? h,
      Nat.succ_mul]

/-- While no block is exhausted, byte `i` of block `j` is emitted in turn `i` at place `j`. -/
theorem roundRobin_getElem? {blocks : List (List Byte)} {n i j : Nat} {b : List Byte}
    (h : ∀ b ∈ blocks, n ≤ b.length) (hj : blocks[j]? = some b) (hi : i < n) :
    (roundRobin blocks n)[i * blocks.length + j]? = b[i]? := by
  induction n with
  | zero => omega
  | succ n ih =>
    have hn : ∀ b ∈ blocks, n ≤ b.length := fun b hb => Nat.le_of_lt (h b hb)
    have hlen := roundRobin_length hn
    have hjlt := (List.getElem?_eq_some_iff.1 hj).1
    rw [roundRobin_succ]
    rcases Nat.lt_succ_iff_lt_or_eq.1 hi with hlt | rfl
    · rw [List.getElem?_append_left (by rw [hlen]; exact turn_place_lt hlt hjlt), ih hn hlt]
    · rw [List.getElem?_append_right (by omega), hlen, Nat.add_sub_cancel_left, getElem?_filterMap_getElem? h hj]

/-! ### The blocks of a version (R160, R162) -/

/-- There is a block of group 1, and a block of group 2 is one byte longer. -/
theorem blockTable_shape {v : Nat} (hv : legalVersion v) :
    0 < (blockTable v).b1 ∧
      ((blockTable v).b2 = 0 ∧ (blockTable v).d2 = 0 ∨ (blockTable v).d2 = (blockTable v).d1 + 1) := by
  obtain ⟨h1, h13⟩ := hv
  interval_cases v <;> decide

theorem blockCount_pos {v : Nat} (hv : legalVersion v) : 0 < blockCount v := Nat.add_pos_left (blockTable_shape hv).1 _

/-- The full turns of the walk, and one byte more for each block of group 2. -/
theorem dataCodewords_eq {v : Nat} (hv : legalVersion v) :
    dataCodewords v = (blockTable v).d1 * blockCount v + (blockTable v).b2 := by
  rw [dataCodewords, blockCount]
  rcases (blockTable_shape hv).2 with ⟨hb, -⟩ | hd
  · rw [hb]; ring
  · rw [hd]; ring

/-- Only a block of group 2 has a byte `d1`, and that is its last. -/
theorem lt_blockLength_iff {v j i : Nat} (hv : legalVersion v) (hj : j < blockCount v) :
    i < blockLength v j ↔ i < (blockTable v).d1 ∨ i = (blockTable v).d1 ∧ (blockTable v).b1 ≤ j := by
  have hshape := (blockTable_shape hv).2
  simp only [blockCount] at hj
  simp only [blockLength]
  split <;> omega

theorem dataPosition_of_lt {v j i : Nat} (hi : i < (blockTable v).d1) : dataPosition v j i = i * blockCount v + j :=
  if_pos hi

theorem dataPosition_last (v j : Nat) :
    dataPosition v j (blockTable v).d1 = (blockTable v).d1 * blockCount v + (j - (blockTable v).b1) :=
  if_neg (Nat.lt_irrefl _)

theorem dataPosition_lt {v j i : Nat} (hv : legalVersion v) (hj : j < blockCount v) (hi : i < blockLength v j) :
    dataPosition v j i < dataCodewords v := by
  rw [dataCodewords_eq hv]
  rcases (lt_blockLength_iff hv hj).1 hi with hfull | ⟨rfl, hgroup2⟩
  · rw [dataPosition_of_lt hfull]
    exact Nat.lt_add_right _ (turn_place_lt hfull hj)
  · rw [dataPosition_last]
    have hplace : j - (blockTable v).b1 < (blockTable v).b2 := by rw [blockCount] at hj; omega
    exact Nat.add_lt_add_left hplace _

theorem chunks_length (data : List Byte) (start size count : Nat) : (chunks data start size count).length = count := by
  rw [chunks, List.length_map, List.length_range]

theorem chunks_getElem? (data : List Byte) (start size : Nat) {count j : Nat} (hj : j < count) :
    (chunks data start size count)[j]? = some ((data.drop (start + j * size)).take size) := by
  rw [chunks, List.getElem?_map, List.getElem?_range hj, Option.map_some]

theorem length_of_mem_chunks {data b : List Byte} {start size count : Nat} (h : start + count * size ≤ data.length)
    (hb : b ∈ chunks data start size count) : b.length = size := by
  obtain ⟨j, hj, rfl⟩ := List.mem_map.1 hb
  have hend := Nat.mul_le_mul_right size (List.mem_range.1 hj)
  rw [Nat.succ_mul] at hend
  rw [List.length_take, List.length_drop]
  omega

theorem sliceBlocks_eq (data : List Byte) (v : Nat) :
    sliceBlocks data v = chunks data 0 (blockTable v).d1 (blockTable v).b1 ++
      chunks data ((blockTable v).b1 * (blockTable v).d1) (blockTable v).d2 (blockTable v).b2 := rfl

theorem sliceBlocks_length (data : List Byte) (v : Nat) : (sliceBlocks data v).length = blockCount v := by
  rw [sliceBlocks_eq, List.length_append, chunks_length, chunks_length, blockCount]

theorem sliceBlocks_getElem? (data : List Byte) {v j : Nat} (hj : j < blockCount v) :
    (sliceBlocks data v)[j]? = some ((data.drop (blockStart v j)).take (blockLength v j)) := by
  simp only [blockCount] at hj
  simp only [sliceBlocks_eq, blockStart, blockLength]
  by_cases hb : j < (blockTable v).b1
  · rw [List.getElem?_append_left (by rwa [chunks_length]), chunks_getElem? _ _ _ hb, if_pos hb, if_pos hb, Nat.zero_add]
  · rw [List.getElem?_append_right (by rw [chunks_length]; omega), chunks_length, chunks_getElem? _ _ _ (by omega),
      if_neg hb, if_neg hb]

section

variable {v : Nat} {data : List Byte} (hv : legalVersion v) (hd : data.length = dataCodewords v)

include hd in
theorem length_of_mem_group1 {b : List Byte} (hb : b ∈ chunks data 0 (blockTable v).d1 (blockTable v).b1) :
    b.length = (blockTable v).d1 :=
  length_of_mem_chunks (by rw [hd, dataCodewords]; omega) hb

include hv hd in
theorem length_of_mem_group2 {b : List Byte}
    (hb : b ∈ chunks data ((blockTable v).b1 * (blockTable v).d1) (blockTable v).d2 (blockTable v).b2) :
    b.length = (blockTable v).d1 + 1 := by
  rcases (blockTable_shape hv).2 with ⟨hb2, -⟩ | hd2
  · rw [hb2] at hb
    cases hb
  · rw [← hd2]
    exact length_of_mem_chunks (by rw [hd, dataCodewords]) hb

include hv hd in
theorem le_length_of_mem_sliceBlocks {b : List Byte} (hb : b ∈ sliceBlocks data v) : (blockTable v).d1 ≤ b.length := by
  rcases List.mem_append.1 (sliceBlocks_eq data v ▸ hb) with h1 | h2
  · exact (length_of_mem_group1 hd h1).ge
  · exact Nat.le_of_lt (length_of_mem_group2 hv hd h2).ge

/-! ### The data part of the output (R164) -/

include hv hd in
/-- The walk goes through `d1` full turns, and then once through the last bytes of group 2. -/
theorem roundRobin_sliceBlocks :
    roundRobin (sliceBlocks data v) (max (blockTable v).d1 (blockTable v).d2) =
      roundRobin (sliceBlocks data v) (blockTable v).d1 ++
        (chunks data ((blockTable v).b1 * (blockTable v).d1) (blockTable v).d2 (blockTable v).b2).filterMap
          fun b => b[(blockTable v).d1]? := by
  rcases (blockTable_shape hv).2 with ⟨hb2, hd2⟩ | hd2
  · rw [hb2, hd2, Nat.max_zero]
    exact (List.append_nil _).symm
  · have hgroup1 : ((chunks data 0 (blockTable v).d1 (blockTable v).b1).filterMap fun b => b[(blockTable v).d1]?) = [] :=
      List.filterMap_eq_nil_iff.2 fun b hb => List.getElem?_eq_none (length_of_mem_group1 hd hb).le
    rw [Nat.max_eq_right (by omega)]
    conv_lhs => rw [hd2, roundRobin_succ, sliceBlocks_eq, List.filterMap_append, hgroup1, List.nil_append]
    rfl

include hv hd in
theorem roundRobin_sliceBlocks_length :
    (roundRobin (sliceBlocks data v) (max (blockTable v).d1 (blockTable v).d2)).length = dataCodewords v := by
  rw [roundRobin_sliceBlocks hv hd, List.length_append,
    roundRobin_length fun b hb => le_length_of_mem_sliceBlocks hv hd hb,
    length_filterMap_getElem? fun b hb => (length_of_mem_group2 hv hd hb).ge, sliceBlocks_length, chunks_length,
    dataCodewords_eq hv]

include hv hd in
/-- Every data byte stands at its position: in its full turn, or in the last turn of group 2. -/
theorem roundRobin_sliceBlocks_getElem? {j i : Nat} (hj : j < blockCount v) (hi : i < blockLength v j) :
    (roundRobin (sliceBlocks data v) (max (blockTable v).d1 (blockTable v).d2))[dataPosition v j i]? =
      data[blockStart v j + i]? := by
  have hblocks : ∀ b ∈ sliceBlocks data v, (blockTable v).d1 ≤ b.length :=
    fun b hb => le_length_of_mem_sliceBlocks hv hd hb
  have hlen := roundRobin_length hblocks
  have hblock := sliceBlocks_getElem? data hj
  have hbyte : ((data.drop (blockStart v j)).take (blockLength v j))[i]? = data[blockStart v j + i]? := by
    rw [List.getElem?_take_of_lt hi, List.getElem?_drop]
  rw [sliceBlocks_length] at hlen
  rw [roundRobin_sliceBlocks hv hd, ← hbyte]
  rcases (lt_blockLength_iff hv hj).1 hi with hfull | ⟨rfl, hgroup2⟩
  · have hread := roundRobin_getElem? hblocks hblock hfull
    rw [sliceBlocks_length] at hread
    rw [dataPosition_of_lt hfull, List.getElem?_append_left (by rw [hlen]; exact turn_place_lt hfull hj), hread]
  · rw [sliceBlocks_eq, List.getElem?_append_right (by rwa [chunks_length]), chunks_length] at hblock
    rw [dataPosition_last, List.getElem?_append_right (by omega), hlen, Nat.add_sub_cancel_left,
      getElem?_filterMap_getElem? (fun b hb => (length_of_mem_group2 hv hd hb).ge) hblock]

/-! ### The whole output (R161, R165, R166) -/

/-- The ECC bytes of each block (R163). -/
def eccBlocks (data : List Byte) (v : Nat) : List (List Byte) :=
  (sliceBlocks data v).map fun b => rsRemainder b (genpoly (blockTable v).ecc)

theorem interleavedCodewords_eq (data : List Byte) (v : Nat) :
    interleavedCodewords data v = roundRobin (sliceBlocks data v) (max (blockTable v).d1 (blockTable v).d2) ++
      roundRobin (eccBlocks data v) (blockTable v).ecc := rfl

theorem eccBlocks_length (data : List Byte) (v : Nat) : (eccBlocks data v).length = blockCount v := by
  rw [eccBlocks, List.length_map, sliceBlocks_length]

theorem length_of_mem_eccBlocks {data e : List Byte} {v : Nat} (he : e ∈ eccBlocks data v) :
    e.length = (blockTable v).ecc := by
  obtain ⟨b, -, rfl⟩ := List.mem_map.1 he
  exact rsRemainder_genpoly_length b _

include hv hd in
theorem interleavedCodewords_length : (interleavedCodewords data v).length = totalCodewords v := by
  rw [interleavedCodewords_eq, List.length_append, roundRobin_sliceBlocks_length hv hd,
    roundRobin_length fun e he => (length_of_mem_eccBlocks he).ge, eccBlocks_length, totalCodewords, blockCount,
    Nat.mul_comm]

include hv hd in
theorem interleavedCodewords_getElem?_dataPosition {j i : Nat} (hj : j < blockCount v) (hi : i < blockLength v j) :
    (interleavedCodewords data v)[dataPosition v j i]? = data[blockStart v j + i]? := by
  have hp : dataPosition v j i < (roundRobin (sliceBlocks data v) (max (blockTable v).d1 (blockTable v).d2)).length :=
    roundRobin_sliceBlocks_length hv hd ▸ dataPosition_lt hv hj hi
  rw [interleavedCodewords_eq, List.getElem?_append_left hp, roundRobin_sliceBlocks_getElem? hv hd hj hi]

include hv hd in
theorem interleavedCodewords_getElem?_eccPosition {j i : Nat} (hj : j < blockCount v) (hi : i < (blockTable v).ecc) :
    (interleavedCodewords data v)[eccPosition v j i]? =
      (rsRemainder ((data.drop (blockStart v j)).take (blockLength v j)) (genpoly (blockTable v).ecc))[i]? := by
  have hecc : (eccBlocks data v)[j]? =
      some (rsRemainder ((data.drop (blockStart v j)).take (blockLength v j)) (genpoly (blockTable v).ecc)) := by
    rw [eccBlocks, List.getElem?_map, sliceBlocks_getElem? data hj, Option.map_some]
  have hread := roundRobin_getElem? (fun e he => (length_of_mem_eccBlocks he).ge) hecc hi
  rw [eccBlocks_length] at hread
  rw [interleavedCodewords_eq, eccPosition, Nat.add_assoc,
    List.getElem?_append_right (by rw [roundRobin_sliceBlocks_length hv hd]; omega),
    roundRobin_sliceBlocks_length hv hd, Nat.add_sub_cancel_left, hread]

end

/-! ### Every output position exactly once (R166) -/

/-- Turn and place in the turn are the quotient and the remainder by the number of blocks. -/
theorem turn_place_iff {v j i q : Nat} (hv : legalVersion v) :
    i * blockCount v + j = q ∧ j < blockCount v ↔ q / blockCount v = i ∧ q % blockCount v = j := by
  rw [Nat.div_mod_unique (blockCount_pos hv), Nat.mul_comm, Nat.add_comm]

/-- The block and the index of the data byte at position `p`: by turn and place in the full turns, and after them the last
byte of a block of group 2. -/
def dataSource (v p : Nat) : Nat × Nat :=
  if p < (blockTable v).d1 * blockCount v then (p % blockCount v, p / blockCount v)
  else ((blockTable v).b1 + (p - (blockTable v).d1 * blockCount v), (blockTable v).d1)

/-- The block and the index of the ECC byte at position `p`, by turn and place. -/
def eccSource (v p : Nat) : Nat × Nat := ((p - dataCodewords v) % blockCount v, (p - dataCodewords v) / blockCount v)

theorem dataSource_dataPosition {v j i : Nat} (hv : legalVersion v) (hj : j < blockCount v) (hi : i < blockLength v j) :
    dataSource v (dataPosition v j i) = (j, i) := by
  rw [dataSource]
  rcases (lt_blockLength_iff hv hj).1 hi with hfull | ⟨rfl, hgroup2⟩
  · obtain ⟨hturn, hplace⟩ := (turn_place_iff hv).1 ⟨rfl, hj⟩
    rw [dataPosition_of_lt hfull, if_pos (turn_place_lt hfull hj), hturn, hplace]
  · rw [dataPosition_last, if_neg (by omega), Nat.add_sub_cancel_left, Nat.add_sub_of_le hgroup2]

theorem dataPosition_dataSource {v p : Nat} (hv : legalVersion v) (hp : p < dataCodewords v) :
    (dataSource v p).1 < blockCount v ∧ (dataSource v p).2 < blockLength v (dataSource v p).1 ∧
      dataPosition v (dataSource v p).1 (dataSource v p).2 = p := by
  rw [dataCodewords_eq hv] at hp
  rw [dataSource]
  split
  next hfull =>
    obtain ⟨hpos, hj⟩ := (turn_place_iff hv).2 ⟨rfl, rfl⟩
    have hi : p / blockCount v < (blockTable v).d1 := (Nat.div_lt_iff_lt_mul (blockCount_pos hv)).2 hfull
    exact ⟨hj, (lt_blockLength_iff hv hj).2 (.inl hi), (dataPosition_of_lt hi).trans hpos⟩
  next hlast =>
    have hj : (blockTable v).b1 + (p - (blockTable v).d1 * blockCount v) < blockCount v := by
      simp only [blockCount] at hp hlast ⊢
      omega
    refine ⟨hj, (lt_blockLength_iff hv hj).2 (.inr ⟨rfl, Nat.le_add_right _ _⟩), ?_⟩
    rw [dataPosition_last]
    omega

theorem existsUnique_dataPosition {v p : Nat} (hv : legalVersion v) (hp : p < dataCodewords v) :
    ∃! x : Nat × Nat, x.1 < blockCount v ∧ x.2 < blockLength v x.1 ∧ dataPosition v x.1 x.2 = p :=
  ⟨dataSource v p, dataPosition_dataSource hv hp,
    fun _ ⟨hj, hi, hx⟩ => (dataSource_dataPosition hv hj hi).symm.trans (congrArg _ hx)⟩

theorem existsUnique_eccPosition {v p : Nat} (hv : legalVersion v) (hD : dataCodewords v ≤ p)
    (hp : p < totalCodewords v) :
    ∃! x : Nat × Nat, x.1 < blockCount v ∧ x.2 < (blockTable v).ecc ∧ eccPosition v x.1 x.2 = p := by
  obtain ⟨hpos, hj⟩ := (turn_place_iff (q := p - dataCodewords v) hv).2 ⟨rfl, rfl⟩
  refine ⟨eccSource v p, ⟨hj, (Nat.div_lt_iff_lt_mul (blockCount_pos hv)).2 ?_, ?_⟩, fun x ⟨hxj, _, hx⟩ => ?_⟩
  · rw [totalCodewords, ← blockCount, Nat.mul_comm] at hp
    omega
  · rw [eccSource, eccPosition, Nat.add_assoc, hpos, Nat.add_sub_of_le hD]
  · rw [eccPosition, Nat.add_assoc] at hx
    obtain ⟨hturn, hplace⟩ := (turn_place_iff (i := x.2) (q := p - dataCodewords v) hv).1 ⟨by omega, hxj⟩
    rw [eccSource, hturn, hplace]

/-- Settles O16: the data part and the ECC part are each a walk, whose turns and places are the quotients and remainders
of the positions. -/
theorem interleaverPositions : Obligations.InterleaverPositions := by
  intro v data h1 h13 hd
  have hv : legalVersion v := ⟨h1, h13⟩
  refine ⟨interleavedCodewords_length hv hd, fun j i hj hi => interleavedCodewords_getElem?_dataPosition hv hd hj hi,
    fun j i hj hi => interleavedCodewords_getElem?_eccPosition hv hd hj hi, fun p hp => ?_⟩
  rcases Nat.lt_or_ge p (dataCodewords v) with hdata | hecc
  · exact .inl ⟨existsUnique_dataPosition hv hdata, hdata⟩
  · exact .inr ⟨existsUnique_eccPosition hv hecc hp, hecc⟩

/-! ### The completion of `ILV` (R161) -/

/-- The three checks of `ILV` (R233). -/
theorem check_ilv_eq_none_iff {s : State} :
    check .ilv s = none ↔
      legalVersion s.latch.symbolVersion ∧ inBuffer s.latch.source (dataCodewords s.latch.symbolVersion) ∧
        inBuffer s.latch.dest (totalCodewords s.latch.symbolVersion) := by
  simp only [check, checkIlv, firstError_eq_none_iff, List.forall_mem_cons, decide_eq_true_eq, List.not_mem_nil,
    false_imp_iff, implies_true, and_true]

/-- The state that `ILV` leaves, with `d` the snapshot of its input (R161). -/
def State.interleaved (s : State) (d : List Byte) : State :=
  ((s.setGen (genpoly (blockTable s.latch.symbolVersion).ecc)).setCwb
    (s.cwb.writeAll s.latch.dest (interleavedCodewords d s.latch.symbolVersion))).complete

theorem exec_ilv_of_snapshot {s : State} {d : List Byte} (hc : check .ilv s = none)
    (h : s.cwb.snapshot s.latch.source (dataCodewords s.latch.symbolVersion) = .ok d) :
    exec .ilv s = .next (s.interleaved d) := by
  rw [exec_eq_perform]
  exact perform_of_ok hc (effectIlv_of_snapshot h)

/-- Settles O15: the checks pass, the snapshot is the written input, and only the output region of `CWB` is written. -/
theorem ilvCompletes : Obligations.IlvCompletes := by
  intro s v src dst data hver hsrc hdst h1 h13 hin hout hd hread
  rw [← Operands.symbolVersion_eq] at hver
  rw [← Operands.source_eq] at hsrc
  rw [← Operands.dest_eq] at hdst
  subst hver hsrc hdst
  have hv : legalVersion s.latch.symbolVersion := ⟨h1, h13⟩
  have hlen := interleavedCodewords_length hv hd
  have hs : s.cwb.snapshot s.latch.source (dataCodewords s.latch.symbolVersion) = .ok data :=
    (Memory.snapshot_ok _ _ _ _).2 ⟨hd, hread⟩
  refine ⟨s.interleaved data, exec_ilv_of_snapshot (check_ilv_eq_none_iff.2 ⟨hv, hin, hout⟩) hs, rfl,
    fun k hk => genCoefficient_genFile_genpoly _ hk, hlen, fun p hp => ?_,
    fun a ha => Memory.read_writeAll_outside _ _ _ _ (by rwa [hlen])⟩
  have hwrite := Memory.read_writeAll (interleavedCodewords data s.latch.symbolVersion) s.cwb s.latch.dest
    (s.latch.dest + p) (by rwa [hlen])
  rwa [if_pos (by omega), Nat.add_sub_cancel_left] at hwrite

end Sys2Proof.Machine
end

/-! SUPPORT. The steps of the matrix builder, cell by cell: what each loop of R180 leaves at a cell of the symbol. -/
section

namespace Sys2Proof.Machine

open Sys2Proof.Spec

/-! ### Loops over cells -/

section
variable {x y : Nat}

theorem Grid.cell_put_of_lt (m : Grid) (r c : Nat) (b : Bool) (hx : x < Config.maxSize) (hy : y < Config.maxSize) :
    (m.put r c b).cell x y = if x = r ∧ y = c then function b else m.cell x y := by
  rw [Grid.cell_put]
  refine if_congr ⟨fun h => ⟨h.1, h.2.1⟩, ?_⟩ rfl rfl
  rintro ⟨rfl, rfl⟩
  exact ⟨rfl, rfl, hx, hy⟩

theorem Grid.cell_reserve_of_lt (m : Grid) (r c : Nat) (hx : x < Config.maxSize) (hy : y < Config.maxSize) :
    (m.reserve r c).cell x y = if x = r ∧ y = c then { m.cell x y with rsv := true } else m.cell x y := by
  rw [Grid.cell_reserve]
  refine if_congr ⟨fun h => ⟨h.1, h.2.1⟩, ?_⟩ rfl rfl
  rintro ⟨rfl, rfl⟩
  exact ⟨rfl, rfl, hx, hy⟩

/-- A loop each of whose rounds either changes a cell by one idempotent `w` or leaves it alone. -/
theorem foldl_cell {ι : Type} {l : List ι} {f : Grid → ι → Grid} {w : Cell → Cell} {P : Prop} [Decidable P]
    (hit : ι → Prop) [DecidablePred hit] (hP : P ↔ ∃ i ∈ l, hit i) (hw : ∀ a, w (w a) = w a)
    (hf : ∀ m, ∀ i ∈ l, (f m i).cell x y = if hit i then w (m.cell x y) else m.cell x y) (m : Grid) :
    (l.foldl f m).cell x y = if P then w (m.cell x y) else m.cell x y := by
  rw [if_congr hP rfl rfl]
  clear hP
  induction l generalizing m with
  | nil => simp
  | cons i l ih =>
    rw [List.foldl_cons, ih (fun m j hj => hf m j (List.mem_cons_of_mem _ hj)), hf m i List.mem_cons_self]
    by_cases hi : hit i <;> simp [hi, hw]

/-- The loop over rows and columns, one of whose rounds changes the cell where `P` holds. -/
theorem overCells_cell {rows cols : List Int} {f : Grid → Int → Int → Grid} {w : Cell → Cell} {P : Prop} [Decidable P]
    (hit : Int → Int → Prop) [∀ r c, Decidable (hit r c)] (hP : P ↔ ∃ r ∈ rows, ∃ c ∈ cols, hit r c)
    (hw : ∀ a, w (w a) = w a)
    (hf : ∀ m, ∀ r ∈ rows, ∀ c ∈ cols, (f m r c).cell x y = if hit r c then w (m.cell x y) else m.cell x y) (m : Grid) :
    (overCells rows cols m f).cell x y = if P then w (m.cell x y) else m.cell x y :=
  foldl_cell (fun r => ∃ c ∈ cols, hit r c) hP hw
    (fun m r hr => foldl_cell (hit r) Iff.rfl hw (fun m c hc => hf m r hr c hc) m) m

end

/-! ### The steps of the builder, cell by cell -/

section
variable {s x y : Nat} (hs : s ≤ Config.maxSize) (hx : x < s) (hy : y < s) (m : Grid)

theorem mem_finderOffsets {d : Int} : d ∈ finderOffsets ↔ -1 ≤ d ∧ d ≤ 7 := by
  simp only [finderOffsets, List.mem_cons, List.not_mem_nil, or_false]
  omega

theorem mem_alignOffsets {d : Int} : d ∈ alignOffsets ↔ -2 ≤ d ∧ d ≤ 2 := by
  simp only [alignOffsets, List.mem_cons, List.not_mem_nil, or_false]
  omega

include hs hx hy in
/-- The 9 × 9 footprint of a finder, clamped to the symbol (R182). -/
theorem placeFinder_cell (R C : Int) :
    (placeFinder s R C m).cell x y =
      if (R - 1 ≤ x ∧ x ≤ R + 7) ∧ C - 1 ≤ y ∧ y ≤ C + 7 then function (finderBlack (x - R) (y - C))
      else m.cell x y := by
  refine overCells_cell (w := fun _ => function (finderBlack (x - R) (y - C))) (fun dr dc => x = R + dr ∧ y = C + dc)
    ?_ (fun _ => rfl) ?_ m
  · constructor
    · intro h
      exact ⟨x - R, mem_finderOffsets.2 (by omega), y - C, mem_finderOffsets.2 (by omega), by omega, by omega⟩
    · rintro ⟨dr, hdr, dc, hdc, h⟩
      have := mem_finderOffsets.1 hdr
      have := mem_finderOffsets.1 hdc
      omega
  · intro m dr _ dc _
    by_cases hit : x = R + dr ∧ y = C + dc
    · obtain ⟨hr, hc⟩ := hit
      rw [if_pos (by omega), Grid.cell_put_of_lt _ _ _ _ (by omega) (by omega), if_pos (by omega), if_pos ⟨hr, hc⟩]
      congr 2 <;> omega
    · rw [if_neg hit]
      split
      · rw [Grid.cell_put_of_lt _ _ _ _ (by omega) (by omega), if_neg (by omega)]
      · rfl

/-- A cell gets its colour unless it is reserved (R186). -/
def Cell.paintFree (b : Bool) (a : Cell) : Cell := if a.rsv then a else function b

theorem putUnreserved_cell (r c : Nat) (b : Bool) (hx : x < Config.maxSize) (hy : y < Config.maxSize) :
    (putUnreserved m r c b).cell x y = if x = r ∧ y = c then (m.cell x y).paintFree b else m.cell x y := by
  unfold putUnreserved Cell.paintFree
  split
  next h =>
    split
    next hit => obtain ⟨rfl, rfl⟩ := hit; rw [if_pos h]
    next => rfl
  next h =>
    rw [Grid.cell_put_of_lt _ _ _ _ hx hy]
    split
    next hit => obtain ⟨rfl, rfl⟩ := hit; rw [if_neg h]
    next => rfl

theorem Cell.paintFree_paintFree (b : Bool) (a : Cell) : (a.paintFree b).paintFree b = a.paintFree b := by
  unfold Cell.paintFree
  split <;> rfl

/-- A line of alternating cells, round `i` of which goes to a cell of the parity of `i`. -/
theorem foldl_putUnreserved_cell (g h : Nat → Nat) (hparity : ∀ i, (g i + h i) % 2 = i % 2)
    (hx : x < Config.maxSize) (hy : y < Config.maxSize) :
    ((List.range s).foldl (fun m i => putUnreserved m (g i) (h i) (i % 2 == 0)) m).cell x y =
      if ∃ i ∈ List.range s, x = g i ∧ y = h i then (m.cell x y).paintFree ((x + y) % 2 == 0) else m.cell x y := by
  refine foldl_cell (fun i => x = g i ∧ y = h i) Iff.rfl (Cell.paintFree_paintFree _) (fun m i _ => ?_) m
  rw [putUnreserved_cell _ _ _ _ hx hy]
  refine if_ctx_congr Iff.rfl (fun hit => ?_) fun _ => rfl
  rw [hit.1, hit.2, hparity]

include hs hx hy in
/-- Row 6 and column 6 of the symbol, where they are not reserved yet (R186). -/
theorem placeTiming_cell :
    (placeTiming s m).cell x y =
      if x = 6 ∨ y = 6 then (m.cell x y).paintFree ((x + y) % 2 == 0) else m.cell x y := by
  have row : (∃ i ∈ List.range s, x = 6 ∧ y = i) ↔ x = 6 := by simp [hy]
  have column : (∃ i ∈ List.range s, x = i ∧ y = 6) ↔ y = 6 := by simp [hx]
  simp only [placeTiming]
  rw [foldl_putUnreserved_cell _ (fun i => i) (fun _ => 6) (by omega) (by omega) (by omega),
    foldl_putUnreserved_cell _ (fun _ => 6) (fun i => i) (by omega) (by omega) (by omega), if_congr row rfl rfl,
    if_congr column rfl rfl]
  by_cases h : y = 6
  · have hit : x = 6 ∨ y = 6 := .inr h
    rw [if_pos h, if_pos hit]
    split
    · exact Cell.paintFree_paintFree _ _
    · rfl
  · rw [if_neg h, if_congr (or_iff_left h) rfl rfl]

/-- A strip of reserved cells in row 8 and its mirror image in column 8. -/
theorem foldl_reserve_cell (l : List Nat) (g : Nat → Nat) (hx : x < Config.maxSize) (hy : y < Config.maxSize) :
    (l.foldl (fun m i => (m.reserve 8 (g i)).reserve (g i) 8) m).cell x y =
      if (x = 8 ∧ ∃ i ∈ l, y = g i) ∨ (y = 8 ∧ ∃ i ∈ l, x = g i) then { m.cell x y with rsv := true }
      else m.cell x y := by
  refine foldl_cell (w := fun a => { a with rsv := true }) (fun i => (x = 8 ∧ y = g i) ∨ (y = 8 ∧ x = g i)) ?_
    (fun _ => rfl) (fun m i _ => ?_) m
  · rw [← exists_and_left, ← exists_and_left, ← exists_or]
    exact exists_congr fun i => by tauto
  · rw [Grid.cell_reserve_of_lt _ _ _ hx hy, Grid.cell_reserve_of_lt _ _ _ hx hy]
    by_cases hrow : x = 8 ∧ y = g i
    · have hit : (x = 8 ∧ y = g i) ∨ (y = 8 ∧ x = g i) := .inl hrow
      rw [if_pos hrow, if_pos hit]
      exact ite_self _
    · rw [if_neg hrow]
      exact if_congr (and_comm.trans (or_iff_right hrow).symm) rfl rfl

/-- The strips of R187 next to the three finders. -/
abbrev InFormatArea (s x y : Nat) : Prop :=
  (x = 8 ∧ (y ≤ 8 ∨ s - 8 ≤ y)) ∨ (y = 8 ∧ (x ≤ 8 ∨ s - 8 ≤ x))

include hs hx hy in
theorem reserveFormat_cell (h8 : 8 ≤ s) :
    (reserveFormat s m).cell x y = if InFormatArea s x y then { m.cell x y with rsv := true } else m.cell x y := by
  have near : ∀ z, (∃ i ∈ List.range 9, z = i) ↔ z ≤ 8 := fun z => by
    simp only [List.mem_range, exists_eq_right']; omega
  have far : ∀ z < s, (∃ i ∈ List.range 8, z = s - 1 - i) ↔ s - 8 ≤ z := fun z hz =>
    ⟨fun ⟨i, hi, h⟩ => by have := List.mem_range.1 hi; omega,
      fun h => ⟨s - 1 - z, List.mem_range.2 (by omega), by omega⟩⟩
  simp only [reserveFormat]
  rw [foldl_reserve_cell _ _ (fun i => s - 1 - i) (by omega) (by omega),
    foldl_reserve_cell _ _ (fun i => i) (by omega) (by omega)]
  simp only [near, far _ hx, far _ hy]
  by_cases hnear : x = 8 ∧ y ≤ 8 ∨ y = 8 ∧ x ≤ 8
  · have hit : InFormatArea s x y := by omega
    rw [if_pos hnear, if_pos hit]
    exact ite_self _
  · rw [if_neg hnear]
    exact if_congr (by omega) rfl rfl

include hs hx hy in
theorem placeDarkModule_cell :
    (placeDarkModule s m).cell x y = if x = s - 8 ∧ y = 8 then function true else m.cell x y :=
  Grid.cell_put_of_lt _ _ _ _ (by omega) (by omega)

/-- The version block above the bottom-left finder or left of the top-right one (R190). -/
abbrev InVersionBlock (s q a : Nat) : Prop := q < 6 ∧ s - 11 ≤ a ∧ a ≤ s - 9

/-- The number of the version bit at a cell of a version block (R190). -/
def versionIndex (s x y : Nat) : Nat := if x < 6 then 3 * x + (y - (s - 11)) else 3 * y + (x - (s - 11))

include hs hx hy in
theorem placeVersion_cell (v : Nat) (h17 : 17 ≤ s) :
    (placeVersion v s m).cell x y =
      if InVersionBlock s x y ∨ InVersionBlock s y x then function ((versionBits v).getLsbD (versionIndex s x y))
      else m.cell x y := by
  have hx' : x < Config.maxSize := by omega
  have hy' : y < Config.maxSize := by omega
  refine foldl_cell (w := fun _ => function ((versionBits v).getLsbD (versionIndex s x y)))
    (fun i => (x = i / 3 ∧ y = s - 11 + i % 3) ∨ (x = s - 11 + i % 3 ∧ y = i / 3)) ?_ (fun _ => rfl) ?_ m
  · simp only [List.mem_range]
    constructor
    · rintro (h | h)
      · exact ⟨3 * x + (y - (s - 11)), by omega⟩
      · exact ⟨3 * y + (x - (s - 11)), by omega⟩
    · rintro ⟨i, h⟩
      omega
  · intro m i hi
    have := List.mem_range.1 hi
    rw [Grid.cell_put_of_lt _ _ _ _ hx' hy', Grid.cell_put_of_lt _ _ _ _ hx' hy']
    have index : (x = i / 3 ∧ y = s - 11 + i % 3) ∨ (x = s - 11 + i % 3 ∧ y = i / 3) → versionIndex s x y = i := by
      unfold versionIndex
      split <;> omega
    by_cases h : (x = i / 3 ∧ y = s - 11 + i % 3) ∨ (x = s - 11 + i % 3 ∧ y = i / 3)
    · rw [if_pos h, index h]
      split
      · rfl
      · rw [if_pos (h.resolve_right ‹_›)]
    · rw [if_neg h, if_neg fun h' => h (.inr h'), if_neg fun h' => h (.inl h')]

end

end Sys2Proof.Machine
end

/-! SUPPORT. The finders as squares of the symbol, and one alignment pattern as a 5 × 5 footprint. -/
section

namespace Sys2Proof.Machine

open Sys2Proof.Spec

/-! ### The three finders (R182, R183) -/

/-- The matrix after the three finder steps of R180. -/
def finderGrid (s : Nat) : Grid :=
  placeFinder s ((s : Int) - 7) 0 (placeFinder s 0 ((s : Int) - 7) (placeFinder s 0 0 Grid.clear))

/-- The ring and the core of the rule are the rows of its picture, the separator included. -/
theorem finderBlack_eq_finderColour {R C x y : Nat} (hx : x < R + 8) (hy : y < C + 8) :
    finderBlack ((x : Int) - R) ((y : Int) - C) = finderColour R C x y := by
  have inside : ∀ i < 8, ∀ j < 8, finderBlack (i : Nat) (j : Nat) = (finderRows.getD i []).getD j false := by decide
  by_cases h : R ≤ x ∧ C ≤ y
  · obtain ⟨⟨i, rfl⟩, j, rfl⟩ := And.imp Nat.exists_eq_add_of_le Nat.exists_eq_add_of_le h
    have hi : ((R + i : Nat) : Int) - R = i := by omega
    have hj : ((C + j : Nat) : Int) - C = j := by omega
    rw [hi, hj, inside i (by omega) j (by omega)]
    simp [finderColour]
  · have black : finderBlack ((x : Int) - R) ((y : Int) - C) = false :=
      decide_eq_false fun ⟨⟨hr, _, hc, _⟩, _⟩ => h (by omega)
    have white : (decide (R ≤ x) && decide (C ≤ y)) = false := by simpa using h
    rw [black, finderColour, white, Bool.false_and]

/-- The 8 × 8 squares of the three finders. -/
abbrev InFinder (s x y : Nat) : Prop := x < 8 ∧ y < 8 ∨ x < 8 ∧ s - 8 ≤ y ∨ s - 8 ≤ x ∧ y < 8

section
variable {s x y : Nat} (hs : s ≤ Config.maxSize) (hx : x < s) (hy : y < s) (h16 : 16 ≤ s)

include hs hx hy h16 in
theorem finderGrid_cell :
    (finderGrid s).cell x y =
      if x < 8 ∧ y < 8 then function (finderColour 0 0 x y)
      else if x < 8 ∧ s - 8 ≤ y then function (finderColour 0 (s - 7) x y)
      else if s - 8 ≤ x ∧ y < 8 then function (finderColour (s - 7) 0 x y)
      else Cell.clear := by
  have hcast : (s : Int) - 7 = (s - 7 : Nat) := by omega
  rw [finderGrid, hcast, placeFinder_cell hs hx hy, placeFinder_cell hs hx hy, placeFinder_cell hs hx hy,
    Grid.cell_clear]
  by_cases tl : x < 8 ∧ y < 8
  · rw [if_neg (by omega), if_neg (by omega), if_pos (by omega), if_pos tl]
    exact congrArg function (finderBlack_eq_finderColour (R := 0) (C := 0) (by omega) (by omega))
  rw [if_neg tl]
  by_cases tr : x < 8 ∧ s - 8 ≤ y
  · rw [if_neg (by omega), if_pos (by omega), if_pos tr]
    exact congrArg function (finderBlack_eq_finderColour (R := 0) (by omega) (by omega))
  rw [if_neg tr]
  by_cases bl : s - 8 ≤ x ∧ y < 8
  · rw [if_pos (by omega), if_pos bl]
    exact congrArg function (finderBlack_eq_finderColour (C := 0) (by omega) (by omega))
  · rw [if_neg bl, if_neg (by omega), if_neg (by omega), if_neg (by omega)]

include hs hx hy h16 in
theorem finderGrid_cell_of_inFinder (h : InFinder s x y) : ∃ b, (finderGrid s).cell x y = function b := by
  rw [finderGrid_cell hs hx hy h16]
  split_ifs
  · exact ⟨_, rfl⟩
  · exact ⟨_, rfl⟩
  · exact ⟨_, rfl⟩
  · omega

include hs hx hy h16 in
theorem finderGrid_cell_of_not_inFinder (h : ¬InFinder s x y) : (finderGrid s).cell x y = Cell.clear := by
  rw [finderGrid_cell hs hx hy h16, if_neg (by omega), if_neg (by omega), if_neg (by omega)]

include hs hx hy h16 in
theorem finderGrid_cell_rsv : ((finderGrid s).cell x y).rsv = decide (InFinder s x y) := by
  by_cases h : InFinder s x y
  · obtain ⟨b, hb⟩ := finderGrid_cell_of_inFinder hs hx hy h16 h
    rw [hb, decide_eq_true h]; rfl
  · rw [finderGrid_cell_of_not_inFinder hs hx hy h16 h, decide_eq_false h]; rfl

end

/-! ### The alignment patterns (R185) -/

/-- The cross product of the listed coordinates, in table order. -/
def alignmentCentres (v : Nat) : List (Nat × Nat) := (alignTable v).flatMap fun R => (alignTable v).map fun C => (R, C)

theorem placeAlignments_eq (v : Nat) (m : Grid) :
    placeAlignments v m = (alignmentCentres v).foldl (fun m p => placeAlignment p.1 p.2 m) m := by
  simp only [placeAlignments, alignmentCentres, List.foldl_flatMap, List.foldl_map]

/-- The cell is in the 5 × 5 footprint of the centre `p`. -/
abbrev Covers (p : Nat × Nat) (x y : Nat) : Prop := gap x p.1 ≤ 2 ∧ gap y p.2 ≤ 2

/-- The cell of the alignment pattern with the centre `p` (R185). -/
def alignmentCell (p : Nat × Nat) (x y : Nat) : Cell := function (max (gap x p.1) (gap y p.2) != 1)

section
variable {s x y : Nat} {p : Nat × Nat} (hs : s ≤ Config.maxSize) (hR : 2 ≤ p.1 ∧ p.1 + 2 < s)
  (hC : 2 ≤ p.2 ∧ p.2 + 2 < s) (m : Grid)

include hR hC in
theorem alignOverlaps_iff :
    alignOverlaps m p.1 p.2 = true ↔ ∃ x y, Covers p x y ∧ (m.cell x y).rsv = true := by
  simp only [alignOverlaps, List.any_eq_true, mem_alignOffsets, Covers, gap]
  constructor
  · rintro ⟨dr, hdr, dc, hdc, h⟩
    exact ⟨_, _, by omega, h⟩
  · rintro ⟨x, y, hxy, h⟩
    refine ⟨x - p.1, by omega, y - p.2, by omega, ?_⟩
    rwa [(by omega : ((p.1 : Int) + (x - p.1)).toNat = x), (by omega : ((p.2 : Int) + (y - p.2)).toNat = y)]

include hs hR hC in
theorem placeAlignment_cell (hx : x < s) (hy : y < s) (h : alignOverlaps m p.1 p.2 = false) :
    (placeAlignment p.1 p.2 m).cell x y = if Covers p x y then alignmentCell p x y else m.cell x y := by
  rw [placeAlignment, h, if_neg Bool.false_ne_true]
  refine overCells_cell (w := fun _ => alignmentCell p x y) (fun dr dc => (x : Int) = p.1 + dr ∧ (y : Int) = p.2 + dc)
    ?_ (fun _ => rfl) (fun m dr hdr dc hdc => ?_) m
  · simp only [mem_alignOffsets, Covers, gap]
    constructor
    · intro h
      exact ⟨x - p.1, by omega, y - p.2, by omega, by omega, by omega⟩
    · rintro ⟨dr, hdr, dc, hdc, h⟩
      omega
  · have := mem_alignOffsets.1 hdr
    have := mem_alignOffsets.1 hdc
    rw [Grid.cell_put_of_lt _ _ _ _ (by omega) (by omega)]
    refine if_ctx_congr (by omega) (fun h => ?_) fun _ => rfl
    have hr : gap x p.1 = dr.natAbs := by unfold gap; omega
    have hc : gap y p.2 = dc.natAbs := by unfold gap; omega
    rw [alignmentCell, hr, hc]; rfl

end

end Sys2Proof.Machine
end

/-! SUPPORT. The alignment patterns of a version: their footprints are disjoint, and exactly the three corners are skipped. -/
section

namespace Sys2Proof.Machine

open Sys2Proof.Spec

/-- The footprints of the two centres are disjoint. -/
abbrev Apart (p q : Nat × Nat) : Prop := 5 ≤ gap p.1 q.1 ∨ 5 ≤ gap p.2 q.2

theorem Apart.not_covers {p q : Nat × Nat} {x y : Nat} (h : Apart p q) (hp : Covers p x y) : ¬Covers q x y := by
  simp only [Apart, Covers, gap] at *
  omega

/-- The centre leaves room for an alignment pattern inside a symbol of size `s`. -/
abbrev FitsIn (s : Nat) (p : Nat × Nat) : Prop := (2 ≤ p.1 ∧ p.1 + 2 < s) ∧ 2 ≤ p.2 ∧ p.2 + 2 < s

theorem FitsIn.lt_of_covers {s x y : Nat} {p : Nat × Nat} (h : FitsIn s p) (hp : Covers p x y) : x < s ∧ y < s := by
  simp only [Covers, gap] at hp
  omega

theorem alignOverlaps_congr {s : Nat} {p : Nat × Nat} {m m' : Grid} (h : FitsIn s p)
    (heq : ∀ x y, Covers p x y → m'.cell x y = m.cell x y) : alignOverlaps m' p.1 p.2 = alignOverlaps m p.1 p.2 := by
  rw [Bool.eq_iff_iff, alignOverlaps_iff h.1 h.2, alignOverlaps_iff h.1 h.2]
  exact exists_congr fun x => exists_congr fun y => and_congr_right fun hp => by rw [heq x y hp]

/-- A list of patterns with disjoint footprints, of which exactly those with `skip` overlap a reserved cell: each cell
is the one of the pattern that covers it, if there is one. -/
theorem foldl_placeAlignment_cell {s x y : Nat} (hs : s ≤ Config.maxSize) (hx : x < s) (hy : y < s)
    (skip : Nat × Nat → Prop) [DecidablePred skip] {ps : List (Nat × Nat)} (hfit : ∀ p ∈ ps, FitsIn s p)
    (hapart : ps.Pairwise Apart) (m : Grid) (hskip : ∀ p ∈ ps, alignOverlaps m p.1 p.2 = decide (skip p)) :
    (ps.foldl (fun m p => placeAlignment p.1 p.2 m) m).cell x y =
      ((ps.find? fun p => decide (¬skip p ∧ Covers p x y)).map fun p => alignmentCell p x y).getD (m.cell x y) := by
  induction ps generalizing m with
  | nil => rfl
  | cons p ps ih =>
    obtain ⟨hp, hps⟩ := List.forall_mem_cons.1 hfit
    obtain ⟨hpq, hps'⟩ := List.pairwise_cons.1 hapart
    obtain ⟨hskip_p, hskip_ps⟩ := List.forall_mem_cons.1 hskip
    rw [List.foldl_cons]
    by_cases hsk : skip p
    · have hover : alignOverlaps m p.1 p.2 = true := hskip_p.trans (decide_eq_true hsk)
      rw [placeAlignment, if_pos hover, ih hps hps' m hskip_ps, List.find?_cons_of_neg (by simp [hsk])]
    · have hcell : ∀ {x y}, x < s → y < s → (placeAlignment p.1 p.2 m).cell x y =
          if Covers p x y then alignmentCell p x y else m.cell x y := fun hx hy =>
        placeAlignment_cell hs hp.1 hp.2 m hx hy (hskip_p.trans (decide_eq_false hsk))
      rw [ih hps hps' _ fun q hq => ?_, hcell hx hy]
      · by_cases hcov : Covers p x y
        · have others : (ps.find? fun q => decide (¬skip q ∧ Covers q x y)) = none :=
            List.find?_eq_none.2 fun q hq h => (hpq q hq).not_covers hcov (of_decide_eq_true h).2
          rw [others, if_pos hcov, List.find?_cons_of_pos (by simp [hsk, hcov])]; rfl
        · rw [if_neg hcov, List.find?_cons_of_neg (by simp [hcov])]
      · rw [← hskip_ps q hq]
        refine alignOverlaps_congr (hps q hq) fun x y hq' => ?_
        obtain ⟨hx, hy⟩ := (hps q hq).lt_of_covers hq'
        rw [hcell hx hy, if_neg fun hp' => (hpq q hq).not_covers hp' hq']

/-! ### The centres of the table (R184, R185) -/

/-- One of the three corners of the cross product that the finders take (R185). -/
abbrev IsCorner (v : Nat) (p : Nat × Nat) : Prop :=
  p = (6, 6) ∨ p = (6, 4 * v + 17 - 7) ∨ p = (4 * v + 17 - 7, 6)

/-- The footprint of the centre meets neither the finders of a symbol of size `s` nor the format area. -/
abbrev ClearOfFinders (s : Nat) (p : Nat × Nat) : Prop :=
  (11 ≤ p.1 ∨ 11 ≤ p.2) ∧ (11 ≤ p.1 ∨ p.2 + 11 ≤ s) ∧ (p.1 + 11 ≤ s ∨ 11 ≤ p.2)

section
variable {v : Nat} (hv : legalVersion v)

include hv in
theorem symbolSize_bounds : 21 ≤ symbolSize v ∧ symbolSize v ≤ Config.maxSize := by
  have h1 : 1 ≤ v := hv.1
  have h13 : v ≤ 13 := hv.2
  exact ⟨by unfold symbolSize; omega, show 4 * v + 17 ≤ 69 by omega⟩

include hv in
theorem alignmentCentres_pairwise : (alignmentCentres v).Pairwise Apart := by
  have all : ∀ v < 14, (alignmentCentres v).Pairwise Apart := by decide
  exact all v (Nat.lt_succ_of_le hv.2)

include hv in
theorem fitsIn_of_mem {p : Nat × Nat} (hp : p ∈ alignmentCentres v) : FitsIn (symbolSize v) p := by
  obtain ⟨R, hR, hp⟩ := List.mem_flatMap.1 hp
  obtain ⟨C, hC, rfl⟩ := List.mem_map.1 hp
  exact ⟨alignTable_bounds hv R hR, alignTable_bounds hv C hC⟩

include hv in
theorem clearOfFinders_of_mem {p : Nat × Nat} (hp : p ∈ alignmentCentres v) (hc : ¬IsCorner v p) :
    ClearOfFinders (4 * v + 17) p := by
  have all : ∀ v < 14, ∀ p ∈ alignmentCentres v, ¬IsCorner v p → ClearOfFinders (4 * v + 17) p := by decide
  exact all v (Nat.lt_succ_of_le hv.2) p hp hc

theorem alignmentCentre_eq_find? (v x y : Nat) :
    alignmentCentre v x y = (alignmentCentres v).find? fun p => decide (¬IsCorner v p ∧ Covers p x y) := by
  simp only [alignmentCentre, alignmentCentres, IsCorner, Covers, not_or, and_assoc, ne_eq]

include hv in
theorem alignOverlaps_finderGrid {p : Nat × Nat} (hp : p ∈ alignmentCentres v) :
    alignOverlaps (finderGrid (symbolSize v)) p.1 p.2 = decide (IsCorner v p) := by
  have hfit := fitsIn_of_mem hv hp
  obtain ⟨h21, hs⟩ := symbolSize_bounds hv
  rw [Bool.eq_iff_iff, alignOverlaps_iff hfit.1 hfit.2, decide_eq_true_iff]
  constructor
  · rintro ⟨x, y, hxy, h⟩
    by_contra hc
    have hclear := clearOfFinders_of_mem hv hp hc
    obtain ⟨hx, hy⟩ := hfit.lt_of_covers hxy
    rw [finderGrid_cell_rsv hs hx hy (by omega), decide_eq_true_iff] at h
    simp only [InFinder, Covers, ClearOfFinders, gap, symbolSize] at *
    omega
  · intro hc
    refine ⟨p.1, p.2, by simp [Covers, gap], ?_⟩
    rw [finderGrid_cell_rsv hs (by omega) (by omega) (by omega), decide_eq_true_iff]
    unfold symbolSize
    rcases hc with rfl | rfl | rfl <;> simp only [InFinder] <;> omega

include hv in
theorem placeAlignments_finderGrid_cell {x y : Nat} (hx : x < symbolSize v) (hy : y < symbolSize v) :
    (placeAlignments v (finderGrid (symbolSize v))).cell x y =
      ((alignmentCentre v x y).map fun p => alignmentCell p x y).getD ((finderGrid (symbolSize v)).cell x y) := by
  rw [placeAlignments_eq, alignmentCentre_eq_find?]
  exact foldl_placeAlignment_cell (symbolSize_bounds hv).2 hx hy (IsCorner v) (fun p hp => fitsIn_of_mem hv hp)
    (alignmentCentres_pairwise hv) _ fun p hp => alignOverlaps_finderGrid hv hp

include hv in
/-- Where an alignment pattern covers a cell, its centre is clear of the finders. -/
theorem covers_of_alignmentCentre {x y : Nat} {p : Nat × Nat} (h : alignmentCentre v x y = some p) :
    Covers p x y ∧ ClearOfFinders (4 * v + 17) p := by
  rw [alignmentCentre_eq_find?] at h
  have hp := List.find?_some h
  obtain ⟨hc, hcov⟩ := of_decide_eq_true hp
  exact ⟨hcov, clearOfFinders_of_mem hv (List.mem_of_find?_eq_some h) hc⟩

end
end Sys2Proof.Machine
end

/-! SUPPORT. The matrix that `MTX_BUILD` leaves is the layout of the rules, cell by cell. -/
section

namespace Sys2Proof.Machine

open Sys2Proof.Spec

section
variable {v x y : Nat} (hv : legalVersion v) (hx : x < symbolSize v) (hy : y < symbolSize v)

/-- The matrix after the finders, the alignment patterns and the timing patterns (R180). -/
def patternGrid (v : Nat) : Grid := placeTiming (symbolSize v) (placeAlignments v (finderGrid (symbolSize v)))

/-- The 9 × 9, 9 × 8 and 8 × 9 blocks in three corners of the symbol, which hold the finders and the format area. -/
abbrev InCornerBlock (s x y : Nat) : Prop := x ≤ 8 ∧ y ≤ 8 ∨ x ≤ 8 ∧ s - 8 ≤ y ∨ s - 8 ≤ x ∧ y ≤ 8

include hv in
/-- No alignment pattern reaches into a corner block. -/
theorem alignmentCentre_eq_none (h : InCornerBlock (symbolSize v) x y) : alignmentCentre v x y = none := by
  rw [Option.eq_none_iff_forall_ne_some]
  intro p hp
  have hsize : symbolSize v = 4 * v + 17 := rfl
  obtain ⟨hcov, hclear⟩ := covers_of_alignmentCentre hv hp
  simp only [Covers, ClearOfFinders, gap] at hcov hclear
  omega

/-- The version blocks of a symbol that has them (R190). -/
abbrev InVersion (v x y : Nat) : Prop :=
  7 ≤ v ∧ (InVersionBlock (symbolSize v) x y ∨ InVersionBlock (symbolSize v) y x)

include hv hx hy in
/-- The last three steps of R180 over the patterns placed before them. -/
theorem builtMatrix_cell :
    (builtMatrix v).cell x y =
      if InVersion v x y then function ((versionBits v).getLsbD (versionIndex (symbolSize v) x y))
      else if x = symbolSize v - 8 ∧ y = 8 then function true
      else if InFormatArea (symbolSize v) x y then { (patternGrid v).cell x y with rsv := true }
      else (patternGrid v).cell x y := by
  obtain ⟨h21, hs⟩ := symbolSize_bounds hv
  have hbuilt : builtMatrix v =
      if 7 ≤ v then placeVersion v (symbolSize v)
        (placeDarkModule (symbolSize v) (reserveFormat (symbolSize v) (patternGrid v)))
      else placeDarkModule (symbolSize v) (reserveFormat (symbolSize v) (patternGrid v)) := rfl
  rw [hbuilt, ← reserveFormat_cell hs hx hy _ (by omega), ← placeDarkModule_cell hs hx hy]
  by_cases h7 : 7 ≤ v
  · rw [if_pos h7, placeVersion_cell hs hx hy _ v (by omega)]
    exact if_congr (and_iff_right h7).symm rfl rfl
  · rw [if_neg h7, if_neg fun h : InVersion v x y => h7 h.1]

include hv hx hy in
theorem patternGrid_cell_of_inFinder (h : InFinder (symbolSize v) x y) :
    (patternGrid v).cell x y = (finderGrid (symbolSize v)).cell x y := by
  obtain ⟨h21, hs⟩ := symbolSize_bounds hv
  have hcentre := alignmentCentre_eq_none hv (show InCornerBlock _ x y by omega)
  have hrsv : ((finderGrid (symbolSize v)).cell x y).rsv = true := by
    rw [finderGrid_cell_rsv hs hx hy (by omega), decide_eq_true h]
  rw [patternGrid, placeTiming_cell hs hx hy, placeAlignments_finderGrid_cell hv hx hy, hcentre]
  simp only [Option.map_none, Option.getD_none, Cell.paintFree, hrsv, if_true, ite_self]

include hv hx hy in
theorem patternGrid_cell_of_centre {p : Nat × Nat} (h : alignmentCentre v x y = some p) :
    (patternGrid v).cell x y = alignmentCell p x y := by
  obtain ⟨h21, hs⟩ := symbolSize_bounds hv
  rw [patternGrid, placeTiming_cell hs hx hy, placeAlignments_finderGrid_cell hv hx hy, h]
  simp only [Option.map_some, Option.getD_some, Cell.paintFree, alignmentCell, function, if_true, ite_self]

include hv hx hy in
theorem patternGrid_cell_elsewhere (hf : ¬InFinder (symbolSize v) x y) (h : alignmentCentre v x y = none) :
    (patternGrid v).cell x y = if x = 6 ∨ y = 6 then function ((x + y) % 2 == 0) else Cell.clear := by
  obtain ⟨h21, hs⟩ := symbolSize_bounds hv
  rw [patternGrid, placeTiming_cell hs hx hy, placeAlignments_finderGrid_cell hv hx hy, h, Option.map_none,
    Option.getD_none, finderGrid_cell_of_not_inFinder hs hx hy (by omega) hf]
  rfl

/-! ### The layout, case by case -/

theorem layoutCell_outside (h : symbolSize v ≤ x ∨ symbolSize v ≤ y) : layoutCell v x y = Cell.clear := if_pos h

include hv hx hy in
theorem layoutCell_of_inFinder (h : InFinder (symbolSize v) x y) :
    layoutCell v x y = (finderGrid (symbolSize v)).cell x y := by
  obtain ⟨h21, hs⟩ := symbolSize_bounds hv
  rw [finderGrid_cell hs hx hy (by omega)]
  have hsize : symbolSize v = 4 * v + 17 := rfl
  simp only [layoutCell]
  rw [if_neg (by omega)]
  rcases h with tl | tr | bl
  · rw [if_pos tl, if_pos tl]
  · rw [if_neg (by omega), if_pos (by omega), if_neg (by omega), if_pos tr]; rfl
  · rw [if_neg (by omega), if_neg (by omega), if_pos (by omega), if_neg (by omega), if_neg (by omega), if_pos bl]; rfl

include hx hy in
theorem layoutCell_of_inVersion (h : InVersion v x y) :
    layoutCell v x y = function ((versionBits v).getLsbD (versionIndex (symbolSize v) x y)) := by
  have hsize : symbolSize v = 4 * v + 17 := rfl
  simp only [layoutCell, versionIndex]
  rw [if_neg (by omega), if_neg (by omega), if_neg (by omega), if_neg (by omega)]
  by_cases htop : x < 6
  · rw [if_pos (by omega), if_pos htop]; rfl
  · rw [if_neg (by omega), if_pos (by omega), if_neg htop]; rfl

include hx hy in
/-- Outside the finder squares and the version blocks, an alignment pattern comes first, then the timing patterns, the
dark module and the format area. -/
theorem layoutCell_beyond (hf : ¬InFinder (symbolSize v) x y) (hver : ¬InVersion v x y) :
    layoutCell v x y =
      ((alignmentCentre v x y).map fun p => alignmentCell p x y).getD
        (if x = 6 ∨ y = 6 then function ((x + y) % 2 == 0)
        else if x = symbolSize v - 8 ∧ y = 8 then function true
        else if InFormatArea (symbolSize v) x y then ⟨false, false, true⟩
        else Cell.clear) := by
  have hsize : symbolSize v = 4 * v + 17 := rfl
  simp only [layoutCell]
  rw [if_neg (by omega), if_neg (by omega), if_neg (by omega), if_neg (by omega), if_neg (by omega),
    if_neg (by omega)]
  cases alignmentCentre v x y <;> rfl

include hv hx hy in
/-- Inside the symbol, a later step overwrites an earlier one only where the layout gives the later pattern
precedence. -/
theorem builtMatrix_cell_eq_layoutCell : (builtMatrix v).cell x y = layoutCell v x y := by
  obtain ⟨h21, hs⟩ := symbolSize_bounds hv
  rw [builtMatrix_cell hv hx hy]
  by_cases hf : InFinder (symbolSize v) x y
  · rw [layoutCell_of_inFinder hv hx hy hf, patternGrid_cell_of_inFinder hv hx hy hf, if_neg (by omega),
      if_neg (by omega), if_neg (by omega)]
  by_cases hver : InVersion v x y
  · rw [layoutCell_of_inVersion hx hy hver, if_pos hver]
  rw [if_neg hver]
  cases hc : alignmentCentre v x y with
  | some p =>
    have hcorner : ¬InCornerBlock (symbolSize v) x y := fun h => by
      cases hc.symm.trans (alignmentCentre_eq_none hv h)
    rw [layoutCell_beyond hx hy hf hver, hc, patternGrid_cell_of_centre hv hx hy hc, if_neg (by omega),
      if_neg (by omega), Option.map_some, Option.getD_some]
  | none =>
    rw [layoutCell_beyond hx hy hf hver, hc, patternGrid_cell_elsewhere hv hx hy hf hc, Option.map_none,
      Option.getD_none]
    by_cases ht : x = 6 ∨ y = 6
    · rw [if_pos ht, if_pos ht, if_neg (by omega)]
      exact ite_self _
    · rw [if_neg ht, if_neg ht]; rfl

include hv in
/-- Nothing is placed outside the symbol (R41). -/
theorem builtMatrix_cell_outside (h : symbolSize v ≤ x ∨ symbolSize v ≤ y) : (builtMatrix v).cell x y = Cell.clear :=
  builtMatrix_of_keptInside hv (keptInside_clearOutside _) (Grid.clearOutside_clear _) x y h

end

/-- Settles O18: outside the symbol every cell is clear; inside, the steps and the rules agree pattern by pattern. -/
theorem builtMatrixIsTheLayout : Obligations.BuiltMatrixIsTheLayout := by
  intro v r c h1 h13
  have hv : legalVersion v := ⟨h1, h13⟩
  by_cases h : symbolSize v ≤ r ∨ symbolSize v ≤ c
  · rw [layoutCell_outside h, builtMatrix_cell_outside hv h]
  · exact builtMatrix_cell_eq_layoutCell hv (by omega) (by omega)

end Sys2Proof.Machine
end

/-! SUPPORT. The numbers of reserved and free cells of each version's symbol, counted by disjoint rectangles. -/
section

namespace Sys2Proof.Machine

open Sys2Proof.Spec

/-! ### Counting by disjoint rectangles -/

/-- The cells with `top ≤ r < bottom` and `left ≤ c < right`. -/
structure Rect where
  top : Nat
  bottom : Nat
  left : Nat
  right : Nat

namespace Rect

/-- The cell is in the rectangle. -/
abbrev Has (b : Rect) (r c : Nat) : Prop := (b.top ≤ r ∧ r < b.bottom) ∧ b.left ≤ c ∧ c < b.right

/-- The number of its cells. -/
def area (b : Rect) : Nat := (b.bottom - b.top) * (b.right - b.left)

/-- The rectangle is inside a symbol of size `s`. -/
abbrev Within (s : Nat) (b : Rect) : Prop := b.bottom ≤ s ∧ b.right ≤ s

/-- The two rectangles have no cell in common. -/
abbrev Separate (a b : Rect) : Prop := (a.bottom ≤ b.top ∨ b.bottom ≤ a.top) ∨ a.right ≤ b.left ∨ b.right ≤ a.left

/-- The rectangles are inside a symbol of size `s`, and no two have a cell in common. -/
abbrev Tiling (s : Nat) (l : List Rect) : Prop := (∀ b ∈ l, b.Within s) ∧ l.Pairwise Separate

theorem Tiling.mono {s t : Nat} {l : List Rect} (h : Tiling s l) (hst : s ≤ t) : Tiling t l :=
  ⟨fun b hb => (h.1 b hb).imp (·.trans hst) (·.trans hst), h.2⟩

end Rect

theorem countCells_eq_card (p : Nat → Nat → Bool) :
    countCells p = ((Finset.range 69 ×ˢ Finset.range 69).filter fun x => p x.1 x.2).card := by
  have row : ∀ r, ((List.range 69).filter fun c => p r c).length = ((Finset.range 69).filter fun c => p r c).card :=
    fun r => by
      rw [← List.toFinset_range, ← List.toFinset_filter, List.toFinset_card_of_nodup (List.nodup_range.filter _)]
  simp only [countCells, row, Finset.card_filter, Finset.sum_product]
  rw [← List.sum_toFinset _ List.nodup_range, List.toFinset_range]

/-- Counting is additive over two properties that no cell has together. -/
theorem countCells_or {p q t : Nat → Nat → Bool} (h : ∀ r c, t r c = true ↔ p r c = true ∨ q r c = true)
    (hpq : ∀ r c, p r c = true → q r c = false) : countCells t = countCells p + countCells q := by
  simp only [countCells_eq_card, h, Finset.filter_or]
  refine Finset.card_union_of_disjoint (Finset.disjoint_filter.2 fun x _ hp => ?_)
  rw [hpq _ _ hp]
  exact Bool.false_ne_true

theorem countCells_rect {b : Rect} (h : b.Within 69) : countCells (fun r c => decide (b.Has r c)) = b.area := by
  have hcells : ((Finset.range 69 ×ˢ Finset.range 69).filter fun x => decide (b.Has x.1 x.2)) =
      Finset.Ico b.top b.bottom ×ˢ Finset.Ico b.left b.right := by
    ext x
    simp only [Finset.mem_filter, Finset.mem_product, Finset.mem_range, Finset.mem_Ico, decide_eq_true_eq]
    omega
  rw [countCells_eq_card, hcells, Finset.card_product, Nat.card_Ico, Nat.card_Ico, Rect.area]

/-- The cells of pairwise separate rectangles are as many as their areas together. -/
theorem countCells_tiling {l : List Rect} (hl : Rect.Tiling 69 l) {p : Nat → Nat → Bool}
    (hp : ∀ r c, p r c = true ↔ ∃ b ∈ l, b.Has r c) : countCells p = (l.map Rect.area).sum := by
  induction l generalizing p with
  | nil =>
    have hnone : ∀ r c, p r c = false := fun r c => Bool.eq_false_iff.2 fun h => by simpa using (hp r c).1 h
    simp [countCells_eq_card, hnone]
  | cons b l ih =>
    obtain ⟨hin, hsep⟩ := hl
    obtain ⟨hb, hin⟩ := List.forall_mem_cons.1 hin
    obtain ⟨hbl, hsep⟩ := List.pairwise_cons.1 hsep
    rw [List.map_cons, List.sum_cons, ← countCells_rect hb,
      ← ih ⟨hin, hsep⟩ (p := fun r c => decide (∃ b ∈ l, b.Has r c)) fun r c => decide_eq_true_iff]
    refine countCells_or (fun r c => ?_) fun r c h => ?_
    · simp only [hp, List.exists_mem_cons_iff, decide_eq_true_eq]
    · refine decide_eq_false ?_
      rintro ⟨b', hb', h'⟩
      have := hbl b' hb'
      have := of_decide_eq_true h
      omega

/-! ### The kinds of cells -/

section
variable {v r c : Nat} (hv : legalVersion v) (hr : r < symbolSize v) (hc : c < symbolSize v)

/-- The cell belongs to a function pattern with a colour (R181). -/
abbrev IsColoured (v r c : Nat) : Prop :=
  InFinder (symbolSize v) r c ∨ InVersion v r c ∨ (alignmentCentre v r c).isSome ∨ (r = 6 ∨ c = 6) ∨
    (r = symbolSize v - 8 ∧ c = 8)

include hv hr hc in
theorem layoutCell_of_isColoured (h : IsColoured v r c) : ∃ b, layoutCell v r c = function b := by
  obtain ⟨h21, hs⟩ := symbolSize_bounds hv
  by_cases hf : InFinder (symbolSize v) r c
  · rw [layoutCell_of_inFinder hv hr hc hf]
    exact finderGrid_cell_of_inFinder hs hr hc (by omega) hf
  by_cases hver : InVersion v r c
  · exact ⟨_, layoutCell_of_inVersion hr hc hver⟩
  rw [layoutCell_beyond hr hc hf hver]
  cases ha : alignmentCentre v r c with
  | some p => exact ⟨_, rfl⟩
  | none =>
    rw [Option.map_none, Option.getD_none]
    rcases h with h | h | h | h | h
    · exact absurd h hf
    · exact absurd h hver
    · cases ha ▸ h
    · exact ⟨_, if_pos h⟩
    · rw [if_neg (by omega), if_pos h]
      exact ⟨_, rfl⟩

include hr hc in
theorem layoutCell_of_not_isColoured (h : ¬IsColoured v r c) :
    layoutCell v r c = ⟨false, false, decide (InFormatArea (symbolSize v) r c)⟩ := by
  have ha : alignmentCentre v r c = none := by
    by_contra hne
    exact h (.inr (.inr (.inl (Option.isSome_iff_ne_none.2 hne))))
  rw [layoutCell_beyond hr hc (fun hf => h (.inl hf)) (fun hver => h (.inr (.inl hver))), ha, Option.map_none,
    Option.getD_none, if_neg fun ht => h (.inr (.inr (.inr (.inl ht)))),
    if_neg fun hd => h (.inr (.inr (.inr (.inr hd))))]
  split
  next hfmt => rw [decide_eq_true hfmt]
  next hfmt => rw [decide_eq_false hfmt]; rfl

include hv hr hc in
theorem builtMatrix_cell_rsv :
    ((builtMatrix v).cell r c).rsv = decide (IsColoured v r c ∨ InFormatArea (symbolSize v) r c) := by
  rw [builtMatrix_cell_eq_layoutCell hv hr hc]
  by_cases h : IsColoured v r c
  · obtain ⟨b, hb⟩ := layoutCell_of_isColoured hv hr hc h
    rw [hb, decide_eq_true (.inl h)]; rfl
  · simp only [layoutCell_of_not_isColoured hr hc h, or_iff_right h]

include hv hr hc in
theorem builtMatrix_cell_set : ((builtMatrix v).cell r c).set = decide (IsColoured v r c) := by
  rw [builtMatrix_cell_eq_layoutCell hv hr hc]
  by_cases h : IsColoured v r c
  · obtain ⟨b, hb⟩ := layoutCell_of_isColoured hv hr hc h
    rw [hb, decide_eq_true h]; rfl
  · rw [layoutCell_of_not_isColoured hr hc h, decide_eq_false h]

end

/-! ### The reserved cells as rectangles -/

/-- The centres of the alignment patterns that are placed (R185). -/
def placedCentres (v : Nat) : List (Nat × Nat) := (alignmentCentres v).filter fun p => ¬IsCorner v p

theorem isSome_alignmentCentre_iff {v r c : Nat} :
    (alignmentCentre v r c).isSome ↔ ∃ p ∈ placedCentres v, Covers p r c := by
  simp only [alignmentCentre_eq_find?, List.find?_isSome, placedCentres, List.mem_filter, decide_eq_true_eq, and_assoc]

/-- The cells of an alignment pattern outside row 6 and column 6, where the timing patterns pass. -/
def alignmentRects (p : Nat × Nat) : List Rect :=
  if p.1 = 6 then [⟨4, 6, p.2 - 2, p.2 + 3⟩, ⟨7, 9, p.2 - 2, p.2 + 3⟩]
  else if p.2 = 6 then [⟨p.1 - 2, p.1 + 3, 4, 6⟩, ⟨p.1 - 2, p.1 + 3, 7, 9⟩]
  else [⟨p.1 - 2, p.1 + 3, p.2 - 2, p.2 + 3⟩]

/-- On a timing line or beyond the reach of one, and not on both. -/
abbrev OnOneLineAtMost (p : Nat × Nat) : Prop := (p.1 = 6 ∨ 9 ≤ p.1) ∧ (p.2 = 6 ∨ 9 ≤ p.2) ∧ p ≠ (6, 6)

theorem exists_alignmentRects_iff {p : Nat × Nat} {r c : Nat} (h : OnOneLineAtMost p) :
    (∃ b ∈ alignmentRects p, b.Has r c) ↔ Covers p r c ∧ r ≠ 6 ∧ c ≠ 6 := by
  obtain ⟨h1, h2, h3⟩ := h
  rw [Ne, Prod.ext_iff] at h3
  simp only [alignmentRects, Covers, gap, Rect.Has]
  split_ifs <;> simp only [List.exists_mem_cons_iff, List.not_mem_nil, false_and, exists_false, or_false] <;> omega

/-- The corner blocks, and the timing patterns between them. -/
def cornerAndTimingRects (s : Nat) : List Rect :=
  [⟨0, 9, 0, 9⟩, ⟨0, 9, s - 8, s⟩, ⟨s - 8, s, 0, 9⟩, ⟨6, 7, 9, s - 8⟩, ⟨9, s - 8, 6, 7⟩]

/-- The two version blocks of a symbol that has them (R190). -/
def versionRects (v : Nat) : List Rect :=
  if 7 ≤ v then
    [⟨0, 6, symbolSize v - 11, symbolSize v - 8⟩, ⟨symbolSize v - 11, symbolSize v - 8, 0, 6⟩]
  else []

/-- The reserved cells of a symbol. -/
def reservedRects (v : Nat) : List Rect :=
  cornerAndTimingRects (symbolSize v) ++ (versionRects v ++ (placedCentres v).flatMap alignmentRects)

/-- The format area without the cells of the timing patterns and the dark module. -/
def unsetRects (v : Nat) : List Rect :=
  let s := symbolSize v
  [⟨8, 9, 0, 6⟩, ⟨8, 9, 7, 9⟩, ⟨8, 9, s - 8, s⟩, ⟨0, 6, 8, 9⟩, ⟨7, 8, 8, 9⟩, ⟨s - 7, s, 8, 9⟩]

theorem reservedRects_tiling : ∀ v < 14, Rect.Tiling (symbolSize v) (reservedRects v) := by decide

theorem unsetRects_tiling : ∀ v < 14, Rect.Tiling (symbolSize v) (unsetRects v) := by decide

/-- The sums of the areas, and what they leave of the symbol, are the numbers of R192. -/
theorem reservedRects_area : ∀ v < 14, 1 ≤ v →
    ((reservedRects v).map Rect.area).sum =
        (if v = 1 then 233 else if v ≤ 6 then 266 + 8 * (v - 2) else 457 + 8 * (v - 7)) ∧
      symbolSize v * symbolSize v =
        ((reservedRects v).map Rect.area).sum + (8 * totalCodewords v + if 2 ≤ v ∧ v ≤ 6 then 7 else 0) := by
  decide

theorem unsetRects_area : ∀ v < 14, ((unsetRects v).map Rect.area).sum = 30 := by decide

section
variable {v r c : Nat} (hv : legalVersion v)

include hv in
theorem onOneLineAtMost_of_mem {p : Nat × Nat} (hp : p ∈ placedCentres v) : OnOneLineAtMost p := by
  have all : ∀ v < 14, ∀ p ∈ placedCentres v, OnOneLineAtMost p := by decide
  exact all v (Nat.lt_succ_of_le hv.2) p hp

include hv in
theorem exists_flatMap_alignmentRects_iff :
    (∃ b ∈ (placedCentres v).flatMap alignmentRects, b.Has r c) ↔
      (alignmentCentre v r c).isSome ∧ r ≠ 6 ∧ c ≠ 6 := by
  simp only [List.mem_flatMap, isSome_alignmentCentre_iff]
  constructor
  · rintro ⟨b, ⟨p, hp, hb⟩, hrc⟩
    obtain ⟨hcov, hline⟩ := (exists_alignmentRects_iff (onOneLineAtMost_of_mem hv hp)).1 ⟨b, hb, hrc⟩
    exact ⟨⟨p, hp, hcov⟩, hline⟩
  · rintro ⟨⟨p, hp, hcov⟩, hline⟩
    obtain ⟨b, hb, hrc⟩ := (exists_alignmentRects_iff (onOneLineAtMost_of_mem hv hp)).2 ⟨hcov, hline⟩
    exact ⟨b, ⟨p, hp, hb⟩, hrc⟩

theorem exists_cornerAndTimingRects_iff {s : Nat} (h21 : 21 ≤ s) (hr : r < s) (hc : c < s) :
    (∃ b ∈ cornerAndTimingRects s, b.Has r c) ↔ InCornerBlock s r c ∨ r = 6 ∨ c = 6 := by
  simp only [cornerAndTimingRects, List.exists_mem_cons_iff, List.not_mem_nil, false_and, exists_false, or_false,
    Rect.Has]
  omega

theorem exists_versionRects_iff : (∃ b ∈ versionRects v, b.Has r c) ↔ InVersion v r c := by
  have hsize : symbolSize v = 4 * v + 17 := rfl
  rw [versionRects]
  split
  next h7 =>
    simp only [List.exists_mem_cons_iff, List.not_mem_nil, false_and, exists_false, or_false, Rect.Has]
    omega
  next h7 => exact iff_of_false (by simp) fun h => h7 h.1

theorem Rect.lt_of_has {s : Nat} {l : List Rect} (hl : Rect.Tiling s l) (h : ∃ b ∈ l, b.Has r c) : r < s ∧ c < s := by
  obtain ⟨b, hb, hrc⟩ := h
  have := hl.1 b hb
  omega

include hv in
theorem builtMatrix_rsv_iff : ((builtMatrix v).cell r c).rsv = true ↔ ∃ b ∈ reservedRects v, b.Has r c := by
  by_cases hin : r < symbolSize v ∧ c < symbolSize v
  · obtain ⟨hr, hc⟩ := hin
    have h21 := (symbolSize_bounds hv).1
    have hblock : InCornerBlock (symbolSize v) r c ∨ r = 6 ∨ c = 6 ↔
        (InFinder (symbolSize v) r c ∨ InFormatArea (symbolSize v) r c) ∨ (r = symbolSize v - 8 ∧ c = 8) ∨
          r = 6 ∨ c = 6 := by omega
    rw [builtMatrix_cell_rsv hv hr hc, decide_eq_true_iff]
    simp only [reservedRects, List.mem_append, or_and_right, exists_or, exists_cornerAndTimingRects_iff h21 hr hc,
      exists_versionRects_iff, exists_flatMap_alignmentRects_iff hv]
    rw [hblock, IsColoured, ← not_or]
    -- The two sides are now the same areas in another order, with row 6 and column 6 on both.
    generalize InFinder (symbolSize v) r c = F, InVersion v r c = V, InFormatArea (symbolSize v) r c = M,
      (r = symbolSize v - 8 ∧ c = 8) = D, (r = 6 ∨ c = 6) = T
    clear hblock
    tauto
  · rw [builtMatrix_cell_outside hv (by omega)]
    exact iff_of_false Bool.false_ne_true fun h =>
      hin (Rect.lt_of_has (reservedRects_tiling v (Nat.lt_succ_of_le hv.2)) h)

theorem exists_unsetRects_iff (h21 : 21 ≤ symbolSize v) (hr : r < symbolSize v) (hc : c < symbolSize v) :
    (∃ b ∈ unsetRects v, b.Has r c) ↔
      InFormatArea (symbolSize v) r c ∧ ¬((r = 6 ∨ c = 6) ∨ (r = symbolSize v - 8 ∧ c = 8)) := by
  simp only [unsetRects, List.exists_mem_cons_iff, List.not_mem_nil, false_and, exists_false, or_false, Rect.Has]
  by_cases h8 : r = 8
  · omega
  · omega

include hv in
/-- Of the format area, only the cells of the timing patterns and the dark module get a colour. -/
theorem isColoured_iff_of_inFormatArea (hr : r < symbolSize v) (hc : c < symbolSize v)
    (h : InFormatArea (symbolSize v) r c) :
    IsColoured v r c ↔ (r = 6 ∨ c = 6) ∨ (r = symbolSize v - 8 ∧ c = 8) := by
  have h21 := (symbolSize_bounds hv).1
  have hfinder : ¬InFinder (symbolSize v) r c := by omega
  have hversion : ¬InVersion v r c := by omega
  have hcentre : ¬(alignmentCentre v r c).isSome := by
    rw [alignmentCentre_eq_none hv (by omega)]
    exact Bool.false_ne_true
  rw [IsColoured, or_iff_right hfinder, or_iff_right hversion, or_iff_right hcentre]

include hv in
theorem builtMatrix_unset_iff :
    ((builtMatrix v).cell r c).rsv = true ∧ ((builtMatrix v).cell r c).set = false ↔ ∃ b ∈ unsetRects v, b.Has r c := by
  by_cases hin : r < symbolSize v ∧ c < symbolSize v
  · obtain ⟨hr, hc⟩ := hin
    rw [builtMatrix_cell_rsv hv hr hc, builtMatrix_cell_set hv hr hc, decide_eq_true_iff, decide_eq_false_iff_not,
      exists_unsetRects_iff (symbolSize_bounds hv).1 hr hc]
    constructor
    · rintro ⟨h, hn⟩
      have hfmt := h.resolve_left hn
      exact ⟨hfmt, (isColoured_iff_of_inFormatArea hv hr hc hfmt).not.1 hn⟩
    · rintro ⟨hfmt, hn⟩
      exact ⟨.inr hfmt, (isColoured_iff_of_inFormatArea hv hr hc hfmt).not.2 hn⟩
  · rw [builtMatrix_cell_outside hv (by omega)]
    exact iff_of_false (fun h => absurd h.1 Bool.false_ne_true) fun h =>
      hin (Rect.lt_of_has (unsetRects_tiling v (Nat.lt_succ_of_le hv.2)) h)

include hv in
/-- The symbol is made of its reserved and its free cells. -/
theorem countCells_free :
    countCells (fun r c => ((builtMatrix v).cell r c).rsv) +
        countCells (fun r c => decide (r < symbolSize v ∧ c < symbolSize v) && !((builtMatrix v).cell r c).rsv) =
      symbolSize v * symbolSize v := by
  have hs : symbolSize v ≤ 69 := (symbolSize_bounds hv).2
  have hsymbol := countCells_rect (b := ⟨0, symbolSize v, 0, symbolSize v⟩) ⟨hs, hs⟩
  rw [Rect.area] at hsymbol
  refine (countCells_or (fun r c => ?_) fun r c h => ?_).symm.trans hsymbol
  · have hin : ((builtMatrix v).cell r c).rsv = true → r < symbolSize v ∧ c < symbolSize v := fun h =>
      Rect.lt_of_has (reservedRects_tiling v (Nat.lt_succ_of_le hv.2)) ((builtMatrix_rsv_iff hv).1 h)
    cases h : ((builtMatrix v).cell r c).rsv with
    | true => simp [hin h]
    | false => simp
  · rw [h, Bool.not_true, Bool.and_false]

end

/-- Settles O19: the reserved cells, and among them the unset ones, are disjoint rectangles, and the free cells are the
rest of the symbol. -/
theorem builtMatrixCellCounts : Obligations.BuiltMatrixCellCounts := by
  intro v h1 h13
  have hv : legalVersion v := ⟨h1, h13⟩
  have h14 : v < 14 := Nat.lt_succ_of_le h13
  have hs : symbolSize v ≤ 69 := (symbolSize_bounds hv).2
  have hreserved := countCells_tiling ((reservedRects_tiling v h14).mono hs)
    fun r c => builtMatrix_rsv_iff hv (r := r) (c := c)
  have hunset := countCells_tiling ((unsetRects_tiling v h14).mono hs)
    (p := fun r c => ((builtMatrix v).cell r c).rsv && !((builtMatrix v).cell r c).set)
    fun r c => by rw [← builtMatrix_unset_iff hv, Bool.and_eq_true, Bool.not_eq_true']
  obtain ⟨harea, hsquare⟩ := reservedRects_area v h14 h1
  refine ⟨hreserved.trans harea, ?_, hunset.trans (unsetRects_area v h14)⟩
  have hfree := countCells_free hv
  rw [hreserved, hsquare] at hfree
  exact Nat.add_left_cancel hfree

end Sys2Proof.Machine
end

/-! SUPPORT. The completion of `MTX_BUILD`, and the version information as a BCH codeword. -/
section

namespace Sys2Proof.Machine

open Sys2Proof.Spec

/-- The one check of `MTX_BUILD` (R233). -/
theorem check_mtxBuild (s : State) :
    check .mtxBuild s = if legalVersion s.latch.symbolVersion then none else some .badVersion := by
  simp only [check, checkMtxBuild, firstError_cons, firstError_nil, decide_eq_true_eq]

/-- The word of `VERSION` as a number: `VER` in its low byte and `SIZE` above it (R39, R191). -/
theorem versionWord_toNat {v : Nat} (hv : legalVersion v) :
    (versionWord v).toNat % 256 = v ∧ (versionWord v).toNat / 256 = 4 * v + 17 := by
  obtain ⟨hver, hsize, hlt⟩ := versionWord_fields hv
  simp only [BitVec.extractLsb'_toNat, symbolSize, Nat.shiftRight_eq_div_pow] at hver hsize
  omega

/-- Settles O17: the one check of the rule, then the effect, which always succeeds. -/
theorem mtxBuildCompletes : Obligations.MtxBuildCompletes := by
  intro s v hv
  rw [← Operands.symbolVersion_eq] at hv
  subst hv
  rw [exec_eq_perform]
  constructor
  · intro h
    have hc : check .mtxBuild s = none := (check_mtxBuild s).trans (if_pos h)
    exact ⟨_, perform_of_ok hc rfl, rfl, versionWord_toNat h⟩
  · intro h
    exact perform_of_error _ ((check_mtxBuild s).trans (if_neg h))

/-- The top six of the eighteen bits are the version (R189). -/
theorem versionBits_toNat_div {v : Nat} (hv : v < 64) : (versionBits v).toNat / 4096 = v := by
  rw [versionBits, toNat_append_eq_add, BitVec.toNat_ofNat]
  omega

/-- The remainder of the polynomial division of eighteen bits by `0x1F25`, from the top coefficient down (R189). -/
def bchRemainder (w : BitVec 18) : BitVec 18 :=
  (List.range 6).foldl
    (fun acc k => if acc.getLsbD (17 - k) then acc ^^^ ((0x1F25 : BitVec 18) <<< (5 - k)) else acc) w

theorem bchRemainder_versionBits : ∀ v < 64, bchRemainder (versionBits v) = 0 := by decide +kernel

/-- Settles O20: the version stands above the check bits, and the division of each of the 64 words leaves nothing. -/
theorem versionBitsAreABchCodeword : Obligations.VersionBitsAreABchCodeword :=
  fun v hv => ⟨versionBits_toNat_div hv, bchRemainder_versionBits v hv⟩

end Sys2Proof.Machine
end

/-! SUPPORT. The walk of the placer as numbered column pairs: which cells it lists, at which position, and how many. -/
section

namespace Sys2Proof.Machine

open Sys2Proof.Spec

/-! ### The column pairs, numbered (R210) -/

/-- The right column of the pair with number `p` in walk order; column 6 belongs to no pair. -/
def rightColumn (s p : Nat) : Nat := if 6 < s - 1 - 2 * p then s - 1 - 2 * p else s - 2 - 2 * p

/-- The cells of the pair with number `p` in walk order, reserved ones included. -/
def numberedPair (s p : Nat) : List (Nat × Nat) := pairCells s (rightColumn s p) (p % 2 == 0)

/-- The value of `right` when the loop of R210 comes to the pair with number `p`, before column 6 is skipped. -/
def loopRight (s p : Nat) : Nat := if 6 ≤ s - 1 - 2 * p then s - 1 - 2 * p else s - 2 - 2 * p

theorem mem_walkRows_iff {s r : Nat} {up : Bool} : r ∈ walkRows s up ↔ r < s := by
  refine ⟨mem_walkRows, fun hr => List.mem_map.2 ?_⟩
  cases up with
  | true => exact ⟨s - 1 - r, List.mem_range.2 (by omega), by rw [if_pos rfl]; omega⟩
  | false => exact ⟨r, List.mem_range.2 hr, rfl⟩

theorem mem_pairCells_iff {s right r c : Nat} {up : Bool} :
    (r, c) ∈ pairCells s right up ↔ r < s ∧ (c = right ∨ c = right - 1) := by
  simp only [pairCells, List.mem_flatMap, mem_walkRows_iff, List.mem_cons, List.not_mem_nil, or_false, Prod.mk.injEq]
  constructor
  · rintro ⟨_, hr, ⟨rfl, hc⟩ | ⟨rfl, hc⟩⟩
    · exact ⟨hr, .inl hc⟩
    · exact ⟨hr, .inr hc⟩
  · rintro ⟨hr, hc | hc⟩
    · exact ⟨r, hr, .inl ⟨rfl, hc⟩⟩
    · exact ⟨r, hr, .inr ⟨rfl, hc⟩⟩

/-- Runs of `k` successive numbers, each beginning where the one before it ends, are one run. -/
theorem flatMap_range_range' (a k n : Nat) :
    (List.range n).flatMap (fun t => List.range' (a + k * t) k) = List.range' a (k * n) := by
  induction n with
  | zero => rfl
  | succ n ih =>
    rw [List.range_succ, List.flatMap_append, ih, List.flatMap_singleton, List.range'_append_1, Nat.mul_succ]

section
variable {s : Nat} (hodd : s % 2 = 1) (h7 : 7 ≤ s)
include hodd h7

/-- From the pair with number `p` on, the loop of R210 goes through the `n` pairs that are left. -/
theorem walkPairs_loopRight {n p fuel : Nat} (hn : p + n = (s - 1) / 2) (hfuel : n ≤ fuel) :
    walkPairs s fuel (loopRight s p) (p % 2 == 0) = (List.range' p n).flatMap (numberedPair s) := by
  induction n generalizing p fuel with
  | zero =>
    have hend : loopRight s p < 1 := by rw [loopRight, if_neg (by omega)]; omega
    cases fuel with
    | zero => rfl
    | succ fuel => rw [walkPairs, if_pos hend]; rfl
  | succ n ih =>
    obtain ⟨fuel, rfl⟩ : ∃ f, fuel = f + 1 := ⟨fuel - 1, by omega⟩
    have hgo : ¬loopRight s p < 1 := by unfold loopRight; split <;> omega
    have hskip : (if loopRight s p = 6 then 5 else loopRight s p) = rightColumn s p := by
      unfold loopRight rightColumn; split_ifs <;> omega
    have hnext : rightColumn s p - 2 = loopRight s (p + 1) := by
      unfold loopRight rightColumn; split_ifs <;> omega
    have hturn : (!(p % 2 == 0)) = ((p + 1) % 2 == 0) := by
      rw [Bool.eq_iff_iff, Bool.not_eq_true', beq_eq_false_iff_ne, beq_iff_eq]; omega
    simp only [walkPairs]
    rw [if_neg hgo, hskip, hnext, hturn, ih (by omega) (by omega)]
    rfl

/-- All cells that the loop of R210 visits, reserved ones included. -/
theorem walkPairs_eq_flatMap :
    walkPairs s s (s - 1) true = (List.range ((s - 1) / 2)).flatMap (numberedPair s) := by
  have hstart : loopRight s 0 = s - 1 := if_pos (by omega)
  have h := walkPairs_loopRight hodd h7 (Nat.zero_add _) (show (s - 1) / 2 ≤ s by omega)
  rwa [hstart, ← List.range_eq_range'] at h

/-- The loop visits every cell of the symbol outside column 6. -/
theorem mem_walkPairs_iff {r c : Nat} : (r, c) ∈ walkPairs s s (s - 1) true ↔ r < s ∧ c < s ∧ c ≠ 6 := by
  simp only [walkPairs_eq_flatMap hodd h7, List.mem_flatMap, List.mem_range, numberedPair, mem_pairCells_iff]
  constructor
  · rintro ⟨p, hp, hr, hc⟩
    unfold rightColumn at hc
    split at hc <;> omega
  · rintro ⟨hr, hc, h6⟩
    refine ⟨pairNumber s c, ?_, hr, ?_⟩
    · unfold pairNumber; split <;> omega
    · unfold pairNumber rightColumn; split <;> split <;> omega

/-- The columns of the pair with number `p` have that number, the right one before the left one. -/
theorem rightColumn_place {p : Nat} (hp : p < (s - 1) / 2) :
    pairNumber s (rightColumn s p) = p ∧ columnInPair s (rightColumn s p) = 0 ∧
      pairNumber s (rightColumn s p - 1) = p ∧ columnInPair s (rightColumn s p - 1) = 1 := by
  unfold pairNumber columnInPair
  by_cases h : 6 < s - 1 - 2 * p
  · have hright : rightColumn s p = s - 1 - 2 * p := if_pos h
    have hleft : 6 < rightColumn s p - 1 := by omega
    rw [if_pos (by omega), if_pos (by omega), if_pos hleft, if_pos hleft]
    omega
  · have hright : rightColumn s p = s - 2 - 2 * p := if_neg h
    rw [if_neg (by omega), if_neg (by omega), if_neg (by omega), if_neg (by omega)]
    omega

/-- The visits of one pair are successive. -/
theorem numberedPair_map_visitPosition {p : Nat} (hp : p < (s - 1) / 2) :
    (numberedPair s p).map (fun q => visitPosition s q.1 q.2) = List.range' (2 * s * p) (2 * s) := by
  obtain ⟨hpr, hcr, hpl, hcl⟩ := rightColumn_place hodd h7 hp
  rw [← flatMap_range_range']
  simp only [numberedPair, pairCells, walkRows, List.flatMap_map, List.map_flatMap, List.map_cons, List.map_nil]
  refine List.flatMap_congr fun t ht => ?_
  have ht := List.mem_range.1 ht
  have hrow : (if p % 2 = 0 then s - 1 - (if (p % 2 == 0) = true then s - 1 - t else t)
      else if (p % 2 == 0) = true then s - 1 - t else t) = t := by
    simp only [beq_iff_eq]; split <;> omega
  simp only [visitPosition, hpr, hcr, hpl, hcl, hrow]
  rfl

/-- The visits are numbered one after the other. -/
theorem walkPairs_map_visitPosition :
    (walkPairs s s (s - 1) true).map (fun q => visitPosition s q.1 q.2) = List.range (2 * s * ((s - 1) / 2)) := by
  have h := flatMap_range_range' 0 (2 * s) ((s - 1) / 2)
  rw [walkPairs_eq_flatMap hodd h7, List.map_flatMap, List.range_eq_range' (n := 2 * s * _), ← h]
  refine List.flatMap_congr fun p hp => ?_
  rw [numberedPair_map_visitPosition hodd h7 (List.mem_range.1 hp), Nat.zero_add]

theorem walkPairs_getElem?_visitPosition {r c : Nat} (h : (r, c) ∈ walkPairs s s (s - 1) true) :
    (walkPairs s s (s - 1) true)[visitPosition s r c]? = some (r, c) := by
  obtain ⟨i, hi⟩ := List.mem_iff_getElem?.1 h
  have hmap := congrArg (·[i]?) (walkPairs_map_visitPosition hodd h7)
  simp only [List.getElem?_map, hi, Option.map_some] at hmap
  obtain ⟨hlt, hget⟩ := List.getElem?_eq_some_iff.1 hmap.symm
  rw [List.getElem_range] at hget
  rw [← hget, hi]

/-! ### The walk (R210) -/

theorem mem_walk_iff {m : Grid} {r c : Nat} :
    (r, c) ∈ walk m s ↔ r < s ∧ c < s ∧ c ≠ 6 ∧ (m.cell r c).rsv = false := by
  simp only [walk, List.mem_filter, mem_walkPairs_iff hodd h7, Bool.not_eq_true', and_assoc]

/-- The walk skips reserved cells and keeps the order of the visits. -/
theorem walk_pairwise_visitPosition (m : Grid) :
    (walk m s).Pairwise fun p q => visitPosition s p.1 p.2 < visitPosition s q.1 q.2 := by
  have all : ((walkPairs s s (s - 1) true).map fun q => visitPosition s q.1 q.2).Pairwise (· < ·) := by
    rw [walkPairs_map_visitPosition hodd h7]
    exact List.pairwise_lt_range
  exact (List.pairwise_map.1 all).filter _

theorem walk_nodup (m : Grid) : (walk m s).Nodup := by
  refine (walk_pairwise_visitPosition hodd h7 m).imp ?_
  rintro p _ hlt rfl
  exact Nat.lt_irrefl _ hlt

theorem walk_length_le (m : Grid) : (walk m s).length ≤ s * (s - 1) := by
  have hlen := congrArg List.length (walkPairs_map_visitPosition hodd h7)
  rw [List.length_map, List.length_range, Nat.mul_comm 2, Nat.mul_assoc, Nat.mul_div_cancel' (by omega)] at hlen
  exact (List.length_filter_le _ _).trans_eq hlen

end

/-- Over a matrix without reserved cells the walk leaves out no visit. -/
theorem walk_clear (s : Nat) : walk Grid.clear s = walkPairs s s (s - 1) true :=
  List.filter_eq_self.2 fun p _ => by rw [Grid.cell_clear]; rfl

theorem symbolSize_odd (v : Nat) : symbolSize v % 2 = 1 := by unfold symbolSize; omega

theorem seven_le_symbolSize (v : Nat) : 7 ≤ symbolSize v := by unfold symbolSize; omega

/-- Settles O21: the visits of all cells outside column 6 are numbered 0, 1, 2 and so on, and the walk is the list of these
visits without the reserved cells. -/
theorem walkListsEveryFreeCellOnce : Obligations.WalkListsEveryFreeCellOnce := by
  intro m v _ _
  have hodd := symbolSize_odd v
  have h7 := seven_le_symbolSize v
  refine ⟨walk_nodup hodd h7 m, fun r c => mem_walk_iff hodd h7, fun r c hr hc h6 => ?_,
    walk_pairwise_visitPosition hodd h7 m⟩
  rw [walk_clear]
  exact walkPairs_getElem?_visitPosition hodd h7 ((mem_walkPairs_iff hodd h7).2 ⟨hr, hc, h6⟩)

end Sys2Proof.Machine
end

/-! SUPPORT. The placement of the codeword stream: the cell at each place of the walk, `PLACED`, and the completion of
`ZZ_PLACE`. -/
section

namespace Sys2Proof.Machine

open Sys2Proof.Spec

/-! ### The stream and the cells (R211, R213) -/

/-- Bit `k` of the stream, and 0 once its codewords are used up (R213). -/
theorem streamBit_eq (d : List Byte) (k : Nat) :
    streamBit d k = if k < 8 * d.length then (d.getD (k / 8) 0).getLsbD (7 - k % 8) else false := by
  split
  · rfl
  · rw [streamBit, List.getD_eq_default _ _ (by omega)]
    exact BitVec.getLsbD_zero

/-- Threading gives the cell at place `i` of a list without repeats the stream's bit `k + i`, if it is a cell of the
storage. -/
theorem thread_cell_of_getElem? (stream : List Byte) {cells : List (Nat × Nat)} (hnodup : cells.Nodup) {i r c : Nat}
    (hi : cells[i]? = some (r, c)) (hr : r < Config.maxSize) (hc : c < Config.maxSize) (k : Nat) (m : Grid) :
    (thread stream k cells m).cell r c = ⟨streamBit stream (k + i), true, (m.cell r c).rsv⟩ := by
  induction cells generalizing i k m with
  | nil => cases hi
  | cons p cells ih =>
    obtain ⟨x, y⟩ := p
    obtain ⟨hp, hnodup⟩ := List.nodup_cons.1 hnodup
    cases i with
    | zero =>
      cases hi
      rw [thread, thread_cell_of_not_mem _ _ _ _ hp, Grid.cell_colour, if_pos ⟨rfl, rfl, hr, hc⟩, Nat.add_zero]
    | succ i =>
      have hne : ¬(r = x ∧ c = y ∧ x < Config.maxSize ∧ y < Config.maxSize) := by
        rintro ⟨rfl, rfl, -⟩
        exact hp (List.mem_of_getElem? hi)
      rw [thread, ih hnodup hi, Grid.cell_colour, if_neg hne, Nat.add_right_comm, Nat.add_assoc]

/-- The fields of `PLACED` (R214). -/
theorem placedWord_fields {cells bits : Nat} (hcells : cells < 65536) (hbits : bits < 65536) :
    (placedWord cells bits).toNat / 65536 = cells ∧ (placedWord cells bits).toNat % 65536 = bits := by
  have hword : (placedWord cells bits).toNat = 65536 * cells + bits := by
    have hshift : (BitVec.ofNat 32 cells <<< 16).toNat = cells <<< 16 := by
      rw [BitVec.toNat_shiftLeft, BitVec.toNat_ofNat, Nat.shiftLeft_eq, Nat.shiftLeft_eq]; omega
    rw [placedWord, BitVec.toNat_or, hshift, BitVec.toNat_ofNat, Nat.mod_eq_of_lt (by omega),
      ← Nat.shiftLeft_add_eq_or_of_lt (i := 16) hbits, Nat.shiftLeft_eq, Nat.mul_comm]
  omega

/-! ### The completion of `ZZ_PLACE` (R212–R214) -/

/-- The two checks of `ZZ_PLACE` (R233). -/
theorem check_zzPlace_eq_none_iff {s : State} :
    check .zzPlace s = none ↔ s.ver ≠ 0 ∧ inBuffer s.latch.source s.latch.length := by
  simp only [check, checkZzPlace, firstError_eq_none_iff, List.forall_mem_cons, decide_eq_true_eq, bne_iff_ne,
    List.not_mem_nil, false_imp_iff, implies_true, and_true]

/-- The state that `ZZ_PLACE` leaves, with `d` the snapshot of its input (R212). -/
def State.placedStream (s : State) (d : List Byte) : State :=
  ((s.setMtx (thread d 0 (walk s.mtx s.size) s.mtx)).setPlaced
    (placedWord (walk s.mtx s.size).length (min (8 * s.latch.length) (walk s.mtx s.size).length))).complete

theorem exec_zzPlace_of_snapshot {s : State} {d : List Byte} (hc : check .zzPlace s = none)
    (h : s.cwb.snapshot s.latch.source s.latch.length = .ok d) : exec .zzPlace s = .next (s.placedStream d) := by
  rw [exec_eq_perform]
  exact perform_of_ok hc (effectZzPlace_of_snapshot h)

/-- The walk of a legal version fits in a field of `PLACED`. -/
theorem walk_length_lt {v : Nat} (hv : legalVersion v) (m : Grid) : (walk m (symbolSize v)).length < 65536 := by
  have hs : symbolSize v ≤ 69 := (symbolSize_bounds hv).2
  have hlen := walk_length_le (symbolSize_odd v) (seven_le_symbolSize v) m
  have hmax : symbolSize v * (symbolSize v - 1) ≤ 69 * 68 := Nat.mul_le_mul hs (by omega)
  omega

/-- Settles O22: the checks pass, the snapshot is the written input, and threading it changes the cells of the walk only,
each by the bit of its place. -/
theorem zzPlaceCompletes : Obligations.ZzPlaceCompletes := by
  intro s v src len d h1 h13 hver hsrc hlen hin hd hread
  rw [← Operands.source_eq] at hsrc
  rw [← Operands.length_eq] at hlen
  subst hsrc hlen
  have hv : legalVersion v := ⟨h1, h13⟩
  have hs : symbolSize v ≤ Config.maxSize := (symbolSize_bounds hv).2
  have hchecks : check .zzPlace s = none :=
    check_zzPlace_eq_none_iff.2 ⟨by rw [State.ver_of_versionWord hv hver]; omega, hin⟩
  have hsnap : s.cwb.snapshot s.latch.source s.latch.length = .ok d := (Memory.snapshot_ok _ _ _ _).2 ⟨hd, hread⟩
  have hlt := walk_length_lt hv s.mtx
  rw [← State.size_of_versionWord hv hver] at hs hlt ⊢
  refine ⟨s.placedStream d, exec_zzPlace_of_snapshot hchecks hsnap, rfl, fun k r c hk => ?_,
    fun r c hrc => thread_cell_of_not_mem _ _ _ _ hrc, placedWord_fields hlt (by omega)⟩
  have hmem := List.mem_of_getElem? hk
  obtain ⟨hr, hc⟩ := mem_walk hmem
  have hfree : (s.mtx.cell r c).rsv = false := Bool.eq_false_iff.2 fun h => not_mem_walk_of_rsv h hmem
  have hnodup : (walk s.mtx s.size).Nodup := by
    rw [State.size_of_versionWord hv hver]
    exact walk_nodup (symbolSize_odd v) (seven_le_symbolSize v) s.mtx
  have hcell := thread_cell_of_getElem? d hnodup hk (hr.trans_le hs) (hc.trans_le hs) 0 s.mtx
  rwa [Nat.zero_add, streamBit_eq, hd, hfree] at hcell

/-- Settles O23: a command other than a successful build keeps the function patterns. -/
theorem zzPlaceKeepsReservedCells : Obligations.ZzPlaceKeepsReservedCells :=
  fun _ _ h => (exec_samePatterns h nofun).2

end Sys2Proof.Machine
end

/-! SUPPORT. The walk over a built matrix: its length, and its last cells in the small versions. -/
section

namespace Sys2Proof.Machine

open Sys2Proof.Spec

section
variable {v r c : Nat} (hv : legalVersion v)

include hv in
theorem builtMatrix_rsv_column_six (hr : r < symbolSize v) : ((builtMatrix v).cell r 6).rsv = true := by
  have h21 := (symbolSize_bounds hv).1
  rw [builtMatrix_cell_rsv hv hr (by omega), decide_eq_true_iff]
  exact .inl (.inr (.inr (.inr (.inl (.inr rfl)))))

include hv in
/-- The walk over a built matrix lists all of its free cells. -/
theorem mem_walk_builtMatrix_iff :
    (r, c) ∈ walk (builtMatrix v) (symbolSize v) ↔
      r < symbolSize v ∧ c < symbolSize v ∧ ((builtMatrix v).cell r c).rsv = false := by
  rw [mem_walk_iff (symbolSize_odd v) (seven_le_symbolSize v)]
  refine ⟨fun ⟨hr, hc, _, h⟩ => ⟨hr, hc, h⟩, fun ⟨hr, hc, h⟩ => ⟨hr, hc, ?_, h⟩⟩
  rintro rfl
  cases h.symm.trans (builtMatrix_rsv_column_six hv hr)

include hv in
/-- The length of the walk is the number of free cells (R192). -/
theorem walk_builtMatrix_length :
    (walk (builtMatrix v) (symbolSize v)).length = 8 * totalCodewords v + if 2 ≤ v ∧ v ≤ 6 then 7 else 0 := by
  have hs : symbolSize v ≤ 69 := (symbolSize_bounds hv).2
  obtain ⟨-, hfree, -⟩ := builtMatrixCellCounts v hv.1 hv.2
  rw [← hfree, countCells_eq_card,
    ← List.toFinset_card_of_nodup (walk_nodup (symbolSize_odd v) (seven_le_symbolSize v) _)]
  refine congrArg Finset.card (Finset.ext fun ⟨r, c⟩ => ?_)
  simp only [List.mem_toFinset, mem_walk_builtMatrix_iff hv, Finset.mem_filter, Finset.mem_product, Finset.mem_range,
    Bool.and_eq_true, decide_eq_true_eq, Bool.not_eq_true']
  exact ⟨fun ⟨hr, hc, h⟩ => ⟨⟨by omega, by omega⟩, ⟨hr, hc⟩, h⟩, fun ⟨_, ⟨hr, hc⟩, h⟩ => ⟨hr, hc, h⟩⟩

include hv in
/-- The last two columns of a symbol without version blocks are free between the finders. -/
theorem builtMatrix_rsv_last_columns (h6 : v ≤ 6) (hr : r < symbolSize v) (hc : c ≤ 1) :
    ((builtMatrix v).cell r c).rsv = decide (r ≤ 8 ∨ symbolSize v - 8 ≤ r) := by
  have h21 := (symbolSize_bounds hv).1
  have hcentre : ¬(alignmentCentre v r c).isSome := by
    rw [isSome_alignmentCentre_iff]
    rintro ⟨p, hp, hcov⟩
    have := onOneLineAtMost_of_mem hv hp
    simp only [Covers, gap] at hcov
    omega
  rw [builtMatrix_cell_rsv hv hr (by omega), decide_eq_decide, IsColoured, eq_false hcentre, false_or]
  omega

end

/-! ### The last cells and the first ones (R212, R215) -/

/-- The loop of R210 ends with the columns 1 and 0, which it goes through from top to bottom. -/
theorem pairCells_suffix_walkPairs (v : Nat) :
    pairCells (symbolSize v) 1 false <:+ walkPairs (symbolSize v) (symbolSize v) (symbolSize v - 1) true := by
  have hsize : symbolSize v = 4 * v + 17 := rfl
  have hcount : (symbolSize v - 1) / 2 = (2 * v + 7) + 1 := by omega
  have hcolumn : rightColumn (symbolSize v) (2 * v + 7) = 1 := by rw [rightColumn, if_neg (by omega)]; omega
  have hdown : ((2 * v + 7) % 2 == 0) = false := beq_eq_false_iff_ne.2 (by omega)
  rw [walkPairs_eq_flatMap (symbolSize_odd v) (seven_le_symbolSize v), hcount, List.range_succ, List.flatMap_append,
    List.flatMap_singleton, numberedPair, hcolumn, hdown]
  exact List.suffix_append _ _

/-- The free cells of the last pair end with these seven, where the last eight rows are reserved and the four rows above
them are free. -/
theorem suffix_filter_pairCells {m : Grid} {n : Nat}
    (h : ∀ k < 12, ∀ c ≤ 1, (m.cell (n + k) c).rsv = decide (4 ≤ k)) :
    [(n, 0), (n + 1, 1), (n + 1, 0), (n + 2, 1), (n + 2, 0), (n + 3, 1), (n + 3, 0)] <:+
      (pairCells (n + 12) 1 false).filter fun p => !(m.cell p.1 p.2).rsv := by
  have hrows : walkRows (n + 12) false = List.range n ++ (List.range 12).map (n + ·) := by
    rw [← List.range_add]
    exact List.map_id' _
  have hlast : ((List.range 12).flatMap fun k => [(n + k, 1), (n + k, 0)]).filter (fun p => !(m.cell p.1 p.2).rsv) =
      (List.range 4).flatMap fun k => [(n + k, 1), (n + k, 0)] := by
    have hrow : ∀ k ∈ List.range 12, [(n + k, 1), (n + k, 0)].filter (fun p => !(m.cell p.1 p.2).rsv) =
        if 4 ≤ k then [] else [(n + k, 1), (n + k, 0)] := fun k hk => by
      have hk := List.mem_range.1 hk
      by_cases h4 : 4 ≤ k
      · simp [h k hk, h4]
      · simp [h k hk, h4]
    rw [List.filter_flatMap, List.flatMap_congr hrow]
    rfl
  rw [pairCells, hrows, List.flatMap_append, List.filter_append, List.flatMap_map, hlast]
  exact (List.suffix_cons _ _).trans (List.suffix_append _ _)

/-- Up to version 6 the walk ends with seven cells just above the finder at the bottom left (R215). -/
theorem walk_builtMatrix_ends {v s : Nat} (hv : legalVersion v) (h6 : v ≤ 6) (hs : s = symbolSize v) :
    [(s - 12, 0), (s - 11, 1), (s - 11, 0), (s - 10, 1), (s - 10, 0), (s - 9, 1), (s - 9, 0)] <:+
      walk (builtMatrix v) s := by
  have h21 := (symbolSize_bounds hv).1
  obtain ⟨n, rfl⟩ : ∃ n, s = n + 12 := ⟨s - 12, by omega⟩
  have hrsv : ∀ k < 12, ∀ c ≤ 1, ((builtMatrix v).cell (n + k) c).rsv = decide (4 ≤ k) := fun k hk c hc => by
    rw [builtMatrix_rsv_last_columns hv h6 (by omega) hc, decide_eq_decide]
    omega
  have hpair := pairCells_suffix_walkPairs v
  rw [← hs] at hpair
  exact (suffix_filter_pairCells hrsv).trans (hpair.filter _)

/-- The first cells of the walk of version 1 (R212). -/
theorem walk_builtMatrix_one_begins : [(20, 20), (20, 19), (19, 20), (19, 19)] <+: walk (builtMatrix 1) 21 := by
  have hvisits : [(20, 20), (20, 19), (19, 20), (19, 19)] <+: walkPairs 21 21 20 true := ⟨_, rfl⟩
  have hlayout : ∀ p ∈ [(20, 20), (20, 19), (19, 20), (19, 19)], (layoutCell 1 p.1 p.2).rsv = false := by decide
  have hfree := hvisits.filter fun p => !((builtMatrix 1).cell p.1 p.2).rsv
  rwa [List.filter_eq_self.2 fun p hp => by
    rw [builtMatrixIsTheLayout 1 _ _ le_rfl (by decide), hlayout p hp, Bool.not_false]] at hfree

/-- Settles O54: the walk is as long as the free cells are many, and in versions 2 to 6 its last seven cells are known. -/
theorem remainderCellsAreTheLastOnes : Obligations.RemainderCellsAreTheLastOnes := by
  refine ⟨fun v h1 h13 => ?_, ?_⟩
  · have hlen := walk_builtMatrix_length ⟨h1, h13⟩
    refine ⟨?_, by omega⟩
    by_cases h : 2 ≤ v ∧ v ≤ 6
    · have hlast := List.suffix_iff_eq_drop.1 (walk_builtMatrix_ends ⟨h1, h13⟩ h.2 rfl)
      rw [if_pos h] at hlen ⊢
      rw [hlen] at hlast
      exact hlast.symm
    · rw [if_neg h] at hlen ⊢
      exact List.drop_eq_nil_of_le hlen.le
  · obtain ⟨rest, hwalk⟩ := walk_builtMatrix_one_begins
    rw [← hwalk]
    rfl

end Sys2Proof.Machine
end

/-! SUPPORT. The checks of the model are the table of R233, what a command leaves of the flags and of the host's registers, the
write of `CMD`, the interrupt line in the bits that software reads, and the error codes. -/
section

namespace Sys2Proof.Machine

open Sys2Proof.Spec

/-! ### The table of checks (R233) -/

/-- `VERSION.VER` is the low byte of `VERSION` (R39). -/
theorem State.ver_eq (s : State) : s.ver = s.version.toNat % 256 := by simp [State.ver]

/-- The model's checks, on the fields of the latches and of `VERSION`, are the rows of the table (R233). -/
theorem check_eq_firstFailingCheck (i : Instr) (s : State) :
    check i s = firstFailingCheck i s.latch (s.version.toNat % 256) := by
  cases i with
  | gfMul => rfl
  | rsGenpoly => rw [check_rsGenpoly, Operands.degree_eq]; rfl
  | mtxBuild => rw [check_mtxBuild, Operands.symbolVersion_eq]; rfl
  | rsEncode =>
    simp only [check, checkRsEncode, firstError_cons, firstError_nil, decide_eq_true_eq, Operands.degree_eq,
      Operands.source_eq, Operands.length_eq, Operands.dest_eq, firstFailingCheck, gt_iff_lt, ← Nat.not_le, ite_not]
  | ilv =>
    simp only [check, checkIlv, firstError_cons, firstError_nil, decide_eq_true_eq, Operands.symbolVersion_eq,
      Operands.source_eq, Operands.dest_eq, firstFailingCheck, gt_iff_lt, ← Nat.not_le, ite_not]
  | zzPlace =>
    simp only [check, checkZzPlace, firstError_cons, firstError_nil, decide_eq_true_eq, bne_iff_ne, ne_eq, State.ver_eq,
      Operands.source_eq, Operands.length_eq, firstFailingCheck, gt_iff_lt, ← Nat.not_le, ite_not]

/-! ### The end of a command -/

theorem exec_of_check_error {i : Instr} {s : State} {e : ErrCode} (h : check i s = some e) :
    exec i s = .next (failed s e) :=
  (exec_eq_perform i s).trans (perform_of_error _ h)

/-- A command whose checks pass ends only by its effect and the completion (R271). -/
theorem exec_next_of_check {i : Instr} {s t : State} (hc : check i s = none) (h : exec i s = .next t) :
    ∃ u, effectOf i s = .ok u ∧ t = u.complete := by
  rcases exec_cases i s with ⟨e, he, -⟩ | ⟨u, -, hu, ht⟩ | ⟨a, -, -, ht⟩
  · cases hc.symm.trans he
  · exact ⟨u, hu, Host.Outcome.next.inj (h.symm.trans ht)⟩
  · cases ht.symm.trans h

/-- No effect changes the flags, `CTRL`, the operand registers or the latches (R49). -/
theorem effectOf_keeps_hostRegisters {i : Instr} {s u : State} (h : effectOf i s = .ok u) :
    u.status = s.status ∧ u.ie = s.ie ∧ u.ops = s.ops ∧ u.latch = s.latch := by
  rcases effectOf_cases h with ⟨-, b, rfl⟩ | ⟨-, g, rfl⟩ | ⟨-, g, vs, rfl⟩ | ⟨-, rfl⟩ | ⟨-, d, p, rfl⟩ <;>
    exact ⟨rfl, rfl, rfl, rfl⟩

/-- Settles O24: `exec` makes the checks of the table, and where none fails its answer is a completion. -/
theorem firstFailingCheckIsReported : Obligations.FirstFailingCheckIsReported := by
  intro i s
  rw [← check_eq_firstFailingCheck]
  refine ⟨fun e he => exec_of_check_error he, fun hc t ht => ?_⟩
  obtain ⟨u, -, rfl⟩ := exec_next_of_check hc ht
  rfl

/-- Settles O50: a pending command has passed its checks, so the engine's turn completes it. -/
theorem noErrorAfterAcceptance : Obligations.NoErrorAfterAcceptance := by
  intro s t i ts hinv hpending hscript hstep
  obtain ⟨hcheck, -, -⟩ := hinv.pending i hpending
  have hpending : (s.setScript ts).pending = some i := hpending
  rw [step_of_turn hscript, runTurn_engine, completionStep_of_pending hpending] at hstep
  obtain ⟨u, -, rfl⟩ := exec_next_of_check (s := s.setScript ts) ((check_congr i rfl rfl).trans hcheck) hstep
  exact ⟨rfl, rfl, rfl⟩

/-- Settles O28: an error and a completion both set the flags, and no effect touches the rest. -/
theorem completionSetsDone : Obligations.CompletionSetsDone := by
  intro i s t h
  have irq_of_done {t : State} (hdone : t.status.done = true) (hie : t.ie = s.ie) : t.irq = s.ie := by
    rw [State.irq, hdone, hie, Bool.and_true]
  rcases exec_cases i s with ⟨e, -, ht⟩ | ⟨u, -, hu, ht⟩ | ⟨a, -, -, ht⟩ <;> cases ht.symm.trans h
  · exact ⟨rfl, rfl, rfl, rfl, rfl, rfl, rfl, irq_of_done rfl rfl⟩
  · obtain ⟨hstatus, hie, hops, hlatch⟩ := effectOf_keeps_hostRegisters hu
    have hovr : u.status.ovr = s.status.ovr := congrArg Status.ovr hstatus
    exact ⟨rfl, rfl, rfl, hovr, hie, hops, hlatch, irq_of_done rfl hie⟩

/-! ### The write of `CMD` (R232, R267) -/

/-- Settles O25: the four ways of the issue, with the checks made on the operands just latched. -/
theorem cmdWriteIsAcceptedOrDropped : Obligations.CmdWriteIsAcceptedOrDropped := by
  intro s w ts h
  have hcheck (i : Instr) : check i (s.setScript ts).latchOperands =
      firstFailingCheck i s.ops (s.version.toNat % 256) := check_eq_firstFailingCheck i _
  have hstep : step s = .next ((issueCommand w (s.setScript ts)).respond none) := step_write_cmd h
  refine ⟨fun hbusy => ?_, fun hbusy _ => ⟨fun hd => ?_, fun i e hd he => ?_, fun i hd hc => ?_⟩⟩
  · rw [hstep, issueCommand_of_busy w (s := s.setScript ts) hbusy]
    rfl
  · exact step_write_cmd_of_error h (issueCommand_of_illegal hbusy hd)
  · exact step_write_cmd_of_error h (issueCommand_of_error hbusy hd ((hcheck i).trans he))
  · rw [hstep, issueCommand_of_ok (s := s.setScript ts) hbusy hd ((hcheck i).trans hc)]
    rfl

/-! ### The fields of `CTRL` and `STATUS` as software reads them -/

/-- Bit 0 of `CTRL` is `IE` (R35). -/
theorem State.ctrlWord_bit_zero (s : State) : s.ctrlWord.getLsbD 0 = s.ie := by
  rw [State.ctrlWord, BitVec.getLsbD_append]
  simp

/-- Bit 1 of `STATUS` is `DONE` (R36). -/
theorem Status.word_bit_one (st : Status) : st.word.getLsbD 1 = st.done := by
  rw [Status.word, BitVec.getLsbD_append, BitVec.getLsbD_append]
  simp

/-- Settles O29: the two bits are `IE` and `DONE`, whose conjunction is the line. -/
theorem irqIsEnableAndDone : Obligations.IrqIsEnableAndDone := by
  intro s
  simp only [State.regValue, State.ctrlWord_bit_zero, Status.word_bit_one]
  exact Bool.and_eq_true_iff

/-! ### The numbers of the error codes (R231) -/

theorem ErrCode.code_lt_six (e : ErrCode) : e.code.toNat < 6 := by cases e <;> decide

/-- Every value of `ERRCODE` is the code 0 or that of an error (R231). -/
theorem Status.errField_lt_six (st : Status) : st.errField.toNat < 6 := by
  unfold Status.errField
  split
  · decide
  · exact ErrCode.code_lt_six _

theorem Status.errField_of_errcode {st : Status} {e : ErrCode} (h : st.errcode = some e) : st.errField = e.code := by
  rw [Status.errField, h]

theorem Status.errField_of_none {st : Status} (h : st.errcode = none) : st.errField = 0 := by
  rw [Status.errField, h]

/-- Settles O38: the field is 0 or the number of the code. -/
theorem errorCodesAreNumbered : Obligations.ErrorCodesAreNumbered := fun st =>
  ⟨st.errField_of_none, st.errField_of_errcode, st.errField_of_errcode, st.errField_of_errcode, st.errField_of_errcode,
    st.errField_of_errcode, st.errField_lt_six⟩

end Sys2Proof.Machine
end

/-! SUPPORT. The reset state and its invariant, the completion step in the schedule, and the hazards: reads and writes while a
command runs, and the unwritten input of a command. -/
section

namespace Sys2Proof.Machine

/-! ### The unwritten input of a command (R263) -/

/-- A snapshot stops at the first unwritten offset of its region. -/
theorem Memory.snapshot_of_first_unwritten {m : Memory} {a n k : Nat} (hlo : a ≤ k) (hhi : k < a + n)
    (hnone : m.read k = none) (hfirst : ∀ x, a ≤ x → x < k → m.read x ≠ none) : m.snapshot a n = .error k := by
  cases hs : m.snapshot a n with
  | ok d =>
    obtain ⟨hlen, hread⟩ := (Memory.snapshot_ok _ _ _ _).1 hs
    have hk := hread (k - a) (by omega)
    rw [Nat.add_sub_cancel' hlo, hnone, eq_comm, List.getElem?_eq_none_iff] at hk
    omega
  | error e =>
    obtain ⟨hle, -, hunwritten, hwritten⟩ := Memory.snapshot_error _ _ _ _ hs
    have hke : ¬k < e := fun hlt => hwritten k hlo hlt hnone
    have hek : ¬e < k := fun hlt => hfirst e hle hlt hunwritten
    rw [Nat.le_antisymm (Nat.le_of_not_lt hke) (Nat.le_of_not_lt hek)]

/-- Settles O52: the checks pass, and the effect stops where the snapshot of its input does. -/
theorem unwrittenInputFaults : Obligations.UnwrittenInputFaults := by
  intro s i src count a hsrc hc hinput hlo hhi hnone hfirst
  rw [← check_eq_firstFailingCheck] at hc
  rw [← Operands.source_eq] at hsrc
  rw [← Operands.length_eq, ← Operands.symbolVersion_eq] at hinput
  subst hsrc
  have hsnap := Memory.snapshot_of_first_unwritten hlo hhi hnone hfirst
  have heffect : effectOf i s = .error a := by
    obtain ⟨rfl | rfl, rfl⟩ | ⟨rfl, rfl⟩ := hinput
    · exact (effect_of_unwritten.1 hsnap).1
    · exact (effect_of_unwritten.1 hsnap).2
    · exact effect_of_unwritten.2 hsnap
  exact (exec_eq_perform i s).trans (perform_of_unwritten hc heffect)

/-! ### The completion step (R271) -/

/-- Settles O27: each of the three steps is the completion step, which is enabled exactly when a command is pending. -/
theorem completionStepPerformsThePendingCommand : Obligations.CompletionStepPerformsThePendingCommand := by
  have of_completion {s t : State} (h : step s = completionStep t) :
      (∀ i, t.pending = some i → step s = exec i t) ∧ (t.pending = none → step s = .next t) :=
    ⟨fun _ hp => h.trans (completionStep_of_pending hp), fun hp => h.trans (completionStep_of_idle hp)⟩
  refine ⟨fun s ts h => of_completion (step_of_turn h), fun s h => of_completion (step_of_empty h),
    fun s t a ts h hfalse => of_completion ?_⟩
  have hbus : busAccess a (s.setScript ts) = .next t :=
    (step_access (s := s.setScript (.access a false :: ts)) rfl).symm.trans hfalse
  rw [step_of_turn h, runTurn_access hbus, if_pos rfl]

/-! ### Reads while a command runs (R266) -/

/-- A step that reads a register whose value is not exact, while a command runs. -/
theorem step_read_volatile_register {s : State} {off : Addr} {ts : List Turn} {r : Reg}
    (h : s.script = .access (.read off .word) false :: ts) (hoff : off.toNat = r.offset) (hvolatile : r.volatile = true)
    (hbusy : s.status.busy = true) :
    step s = .next { s with script := ts, resp := some (Config.freeWord s.draws), draws := s.draws + 1 } := by
  have hlt := r.offset_lt
  have hfree : (r.volatile && (s.setScript ts).status.busy) = true := Bool.and_eq_true_iff.2 ⟨hvolatile, hbusy⟩
  rw [step_read_word h (by omega) (hoff ▸ r.offset_aligned), readReg, regAt_eq_some_iff.2 hoff]
  simp only [if_pos hfree]
  rfl

/-- The windows whose reads are not exact while `STATUS.BUSY = 1` (R266). -/
def Window.volatile : Window → Bool
  | .gen _ => true
  | .cwb _ => true
  | .mtx _ _ => true
  | .log _ => false
  | .exp _ => false
  | .reserved => false

theorem readWindow_of_busy {w : Window} {s : State} (hvolatile : w.volatile = true) (hbusy : s.status.busy = true) :
    readWindow w s = .next s.respondFreeByte := by
  cases w with
  | gen k => simp only [readWindow, if_pos hbusy]
  | cwb a => simp only [readWindow, readCwbWindow, if_pos hbusy]
  | mtx r c => simp only [readWindow, if_pos hbusy]
  | log v => cases hvolatile
  | exp i => cases hvolatile
  | reserved => cases hvolatile

/-- The address ranges of `GEN`, `CWB` and `MTX` (R71). -/
theorem windowAt_volatile {n : Nat}
    (h : (0x0100 ≤ n ∧ n ≤ 0x011E) ∨ (0x0400 ≤ n ∧ n ≤ 0x07FF) ∨ (0x1000 ≤ n ∧ n ≤ 0x2298)) :
    (windowAt n).volatile = true := by
  unfold windowAt
  split_ifs
  · rfl
  · omega
  · rfl
  · omega
  · rfl
  · omega

/-- Settles O35: the registers and the windows that R266 names answer a free value while the block is busy. -/
theorem busyReadsAreFreeDraws : Obligations.BusyReadsAreFreeDraws := by
  intro s addr ts hbusy
  constructor
  · rintro (rfl | rfl | rfl) h
    · exact step_read_volatile_register (r := .result) h rfl rfl hbusy
    · exact step_read_volatile_register (r := .version) h rfl rfl hbusy
    · exact step_read_volatile_register (r := .placed) h rfl rfl hbusy
  · intro haddr h
    exact (step_read_byte h (by omega)).trans
      (readWindow_of_busy (s := s.setScript ts) (windowAt_volatile haddr) hbusy)

/-! ### Writes of the codeword buffer (R75, R268) -/

/-- Settles O39: the window's write is the buffer's, or sets `OVR` alone. -/
theorem cwbWrites : Obligations.CwbWrites := by
  intro s addr k w ts h haddr hk
  have hstep : step s = .next ((writeWindow (.cwb k) (w.extractLsb' 0 8) (s.setScript ts)).respond none) := by
    have hlo : 0x100 ≤ addr.toNat := by omega
    rw [step_access h, busAccess_write_byte _ (decide_eq_true hlo), windowAt_eq_cwb_iff.2 ⟨haddr, hk⟩]
  constructor
  · intro hidle
    have hidle : ¬(s.setScript ts).status.busy = true := Bool.eq_false_iff.1 hidle
    rw [writeWindow, if_neg hidle] at hstep
    refine ⟨_, hstep, rfl, ?_, fun x hx => Memory.read_write_other _ _ hx⟩
    exact (Memory.read_write _ _ _ (Nat.lt_succ_of_le hk)).trans (if_pos rfl)
  · intro hbusy
    have hbusy : (s.setScript ts).status.busy = true := hbusy
    rw [hstep, writeWindow, if_pos hbusy]
    rfl

/-! ### The state after reset (R260) -/

/-- Every coefficient of a cleared coefficient file is 0. -/
theorem genCoefficient_replicate_zero (k : Nat) : genCoefficient (Vector.replicate Config.genLength 0) k = 0 := by
  rw [genCoefficient, Vector.toList_replicate, List.getD_eq_getElem?_getD, List.getElem?_replicate]
  split <;> rfl

/-- Settles O41: the registers hold 0, and the matrix and the coefficient file are the cleared ones. -/
theorem resetState : Obligations.ResetState :=
  ⟨rfl, rfl, rfl, rfl, rfl, rfl, rfl, rfl, rfl, rfl, rfl, rfl, rfl, rfl, fun k _ => genCoefficient_replicate_zero k,
    fun r c => Grid.cell_clear r c, rfl, fun _ => rfl⟩

/-- Settles O43: nothing is pending, no matrix is built, and the operands and the buffer are cleared. -/
theorem invariantHoldsAtReset : Obligations.InvariantHoldsAtReset where
  reserved := ⟨Operands.reservedZero_zero, Operands.reservedZero_zero, by decide, by decide⟩
  busy := rfl
  pending := State.pendingSound_of_none rfl
  version := .inl rfl
  white := Grid.unsetWhite_clear
  intact r c := by
    have hcell : State.reset.mtx.cell r c = Cell.clear := Grid.cell_clear r c
    rw [hcell]
    exact ⟨rfl, nofun⟩
  outside := Grid.clearOutside_clear _
  memory := reset_cwb_wf

end Sys2Proof.Machine
end
